-- ==== Sys2Proof/Config.lean ====
section
/-! DEFINITION. What is fixed when the block is built, the input ports of one cycle, and the free values. -/

namespace Sys2Proof

namespace Config

/-- ADDR_W of the hardware (00_scope.md R6). -/
abbrev addrW : Nat := 32

/-- CNT_W of the hardware (00_scope.md R8). -/
abbrev cntW : Nat := 32

/-- PSC_W, the width of the prescaler count (10_state.md R30): max(1, ceil(log2 PRESCALE_N)). -/
def pscWidth (prescaleN : Nat) : Nat :=
  if prescaleN ≤ 2 then 1 else Nat.log2 (prescaleN - 1) + 1

end Config

/-- The build-time parameters ADDR_W, CNT_W and PRESCALE_N (00_scope.md R6 to R8; 10_state.md R35).
No operation writes them. -/
structure Build where
  addrW     : Nat
  cntW      : Nat
  prescaleN : Nat
  deriving DecidableEq, Repr

/-- The builds the spec allows: every parameter at least 1 (R6 to R8). -/
abbrev Build.Ok (b : Build) : Prop := 1 ≤ b.addrW ∧ 1 ≤ b.cntW ∧ 1 ≤ b.prescaleN

/-- The hardware's build: the widths of R6 and R8. The spec gives PRESCALE_N no value;
1 is a DESIGN CHOICE (log entry 1). -/
def Build.hardware : Build :=
  { addrW := Config.addrW, cntW := Config.cntW, prescaleN := 1 }

/-- What the outside does in one clock cycle: the input ports of 10_state.md R33 (the memory data
ports are answered from the message memory), and the bytes other agents write into the message
memory in this cycle (20_memory.md R40, R42). -/
structure CycleIn where
  rst          : Bool := false
  clkEn        : Bool := false
  running      : Bool := false
  startValid   : Bool := false
  startNull    : Bool := false
  startAddr    : Nat := 0
  startRepeat  : Bool := false
  cntLoadValid : Bool := false
  cntLoadValue : Nat := 0
  memWrites    : List (Nat × BitVec 8) := []
  deriving DecidableEq, Repr, Inhabited

/-- The inputs of a cycle that the state's list of inputs does not reach: a free value, indexed by
the cycle counter (log entry 3). -/
opaque Config.freeCycle : Nat → CycleIn

end Sys2Proof
end

