-- ==== Sys2Proof/Word.lean ====
section
/-! DEFINITION. The word types of the block whose width is fixed. An address has ADDR_W bits and a countdown
value CNT_W bits, parameters without an upper bound (00_scope.md R6, R8), so both are natural numbers below
2^ADDR_W and 2^CNT_W (DESIGN CHOICE, log entry 2). -/

namespace Sys2Proof

/-- A message character, CHAR_W bits (00_scope.md R10). -/
abbrev Byte := BitVec 8

/-- A slot pattern, CODE_W bits, bit 0 emitted first (00_scope.md R9; 10_state.md R25; 20_memory.md R44). -/
abbrev Code := BitVec 16

/-- A number of slots, BITS_W bits (00_scope.md R9; 10_state.md R26). -/
abbrev SlotCount := BitVec 5

/-- The event vector EV[5:0] (30_encoding.md R60). -/
abbrev EventVector := BitVec 6

end Sys2Proof
end

