-- ==== Sys2Proof/Machine/Alphabet.lean ====
section
/-! DEFINITION. Message bytes and the alphabet LUT (30_encoding.md R67 to R71). -/

namespace Sys2Proof.Machine

/-- The three classes of message bytes (30_encoding.md R67). -/
inductive CharClass where
  | terminator
  | letter (idx : Fin 26)
  | nonLetter
  deriving DecidableEq, Repr

/-- 30_encoding.md R67. -/
def classify (c : Byte) : CharClass :=
  if c.toNat = 0 then .terminator
  else if h : 0x41 ≤ c.toNat ∧ c.toNat ≤ 0x5A then .letter ⟨c.toNat - 0x41, by omega⟩
  else .nonLetter

/-- An entry of the LUT: the slot pattern and the number of slots (10_state.md R31). -/
structure LutEntry where
  code : Code
  bits : SlotCount
  deriving DecidableEq, Repr

/-- The entries for 'A' to 'Z' (30_encoding.md R68). A constant of the build, which an audited table
may replace (91_not_in_source.md N9; PRESUMED, log entry 10). -/
def alphabet : Vector LutEntry 26 :=
  #v[⟨0x001D, 8⟩, ⟨0x0157, 12⟩, ⟨0x05D7, 14⟩, ⟨0x0057, 10⟩, ⟨0x0001, 4⟩, ⟨0x0175, 12⟩, ⟨0x0177, 12⟩,
     ⟨0x0055, 10⟩, ⟨0x0005, 6⟩, ⟨0x1DDD, 16⟩, ⟨0x01D7, 12⟩, ⟨0x015D, 12⟩, ⟨0x0077, 10⟩, ⟨0x0017, 8⟩,
     ⟨0x0777, 14⟩, ⟨0x05DD, 14⟩, ⟨0x1D77, 16⟩, ⟨0x005D, 10⟩, ⟨0x0015, 8⟩, ⟨0x0007, 6⟩, ⟨0x0075, 10⟩,
     ⟨0x01D5, 12⟩, ⟨0x01DD, 12⟩, ⟨0x0757, 14⟩, ⟨0x1DD7, 16⟩, ⟨0x0577, 14⟩]

/-- The default entry (30_encoding.md R69). -/
def defaultEntry : LutEntry := ⟨0x0000, 4⟩

/-- LUT(c) (30_encoding.md R70). STEP never asks it for the terminator; there it gives the default
entry, which nothing uses. -/
def lut (c : Byte) : LutEntry :=
  match classify c with
  | .letter i => alphabet[i]
  | .nonLetter => defaultEntry
  | .terminator => defaultEntry

/-- A Morse element (30_encoding.md R71). -/
inductive Element where
  | dot
  | dash
  deriving DecidableEq, Repr

/-- The dot and dash sequences of 'A' to 'Z' (30_encoding.md R68, the `morse` column). -/
def morse : Vector (List Element) 26 :=
  #v[[.dot, .dash], [.dash, .dot, .dot, .dot], [.dash, .dot, .dash, .dot], [.dash, .dot, .dot],
     [.dot], [.dot, .dot, .dash, .dot], [.dash, .dash, .dot], [.dot, .dot, .dot, .dot], [.dot, .dot],
     [.dot, .dash, .dash, .dash], [.dash, .dot, .dash], [.dot, .dash, .dot, .dot], [.dash, .dash],
     [.dash, .dot], [.dash, .dash, .dash], [.dot, .dash, .dash, .dot], [.dash, .dash, .dot, .dash],
     [.dot, .dash, .dot], [.dot, .dot, .dot], [.dash], [.dot, .dot, .dash], [.dot, .dot, .dot, .dash],
     [.dot, .dash, .dash], [.dash, .dot, .dot, .dash], [.dash, .dot, .dash, .dash],
     [.dash, .dash, .dot, .dot]]

/-- The on slots of an element (30_encoding.md R71). -/
def elementSlots : Element → List Bool
  | .dot => [true]
  | .dash => [true, true, true]

/-- Elements joined by one off slot, then three off slots (30_encoding.md R71). -/
def letterSlots : List Element → List Bool
  | [] => [false, false, false]
  | [e] => elementSlots e ++ [false, false, false]
  | e :: es => elementSlots e ++ [false] ++ letterSlots es

/-- Slots packed into a code, slot 0 in bit 0 (30_encoding.md R71). -/
def packSlots : List Bool → Nat
  | [] => 0
  | b :: bs => b.toNat + 2 * packSlots bs

/-- The entry that R71 builds from a Morse sequence. -/
def buildEntry (es : List Element) : LutEntry :=
  ⟨BitVec.ofNat _ (packSlots (letterSlots es)), BitVec.ofNat _ (letterSlots es).length⟩

end Sys2Proof.Machine
end

