-- ==== Sys2Proof/Machine/State.lean ====
section
/-! DEFINITION. The state of the machine, why a step can stop, and the state after reset. -/

namespace Sys2Proof.Machine

/-- The message memory: (address, byte) pairs, in the canonical form `Memory.wf` of Machine/Ops.lean. -/
abbrev Memory := List Host.Cell

/-- The combinational output ports of 10_state.md R34, as one cycle drives them. -/
structure Wires where
  tick     : Bool
  faultWe  : Bool
  faultBit : Bool
  memAAddr : Nat
  memAEn   : Bool
  memBAddr : Nat
  memBEn   : Bool
  deriving DecidableEq, Repr

/-- All combinational outputs 0. -/
def Wires.zero : Wires :=
  { tick := false, faultWe := false, faultBit := false, memAAddr := 0, memAEn := false,
    memBAddr := 0, memBEn := false }

/-- The ten registers of 10_state.md R20, the build parameters and the message memory, and three
fields of the model's own: the inputs of the coming cycles, the cycle counter that indexes
`Config.freeCycle`, and the combinational outputs of the last cycle. -/
structure State where
  /-- ACTIVE (R21). -/
  active     : Bool
  /-- BASE (R22). -/
  base       : Nat
  /-- CURSOR (R23). -/
  cursor     : Nat
  /-- REPEAT (R24). -/
  repeatFlag : Bool
  /-- CODE (R25). -/
  code       : Code
  /-- BITS (R26). -/
  bits       : SlotCount
  /-- FAULT_LED (R27), the `fault_led` output. -/
  faultLed   : Bool
  /-- HB_LED (R28), the `hb_led` output. -/
  hbLed      : Bool
  /-- CNT (R29), the `cnt_value` output. -/
  cnt        : Nat
  /-- PSC (R30); its width depends on PRESCALE_N, so it is a count (log entry 12). -/
  psc        : Nat
  /-- ADDR_W, CNT_W, PRESCALE_N (R35). -/
  build      : Build
  /-- The message memory, outside the block (R32; 20_memory.md R40). -/
  mem        : Memory
  /-- MODEL: the inputs of the coming cycles, oldest first (log entry 3). -/
  inputs     : List CycleIn
  /-- MODEL: clock cycles so far; indexes the free inputs (log entry 3). -/
  cycle      : Nat
  /-- MODEL: the combinational outputs of the last cycle (R34; log entry 4). -/
  wires      : Wires
  deriving DecidableEq, Repr

/-- The faults of the machine: none. The block raises no exception, fault or error of any kind
(60_exceptions.md R120), so nothing raises one here either. -/
inductive Fault where
  deriving DecidableEq, Repr

/-- Why a step has no next state. -/
inductive Refusal where
  /-- An operation with no meaning yet; raised by `exec`'s arm of that name alone. Safe. -/
  | notModelled (mnemonic : String)
  /-- STEP or TICK on an active session whose BITS is in 17..31. No rule gives such a value a meaning
  (10_state.md R26), and 93_implementation_defined.md I10 has a model refuse it (log entry 7). Safe. -/
  | bitsOutsideModel
  /-- A cycle with `rst` = 0 and `clk_en` = 1 whose PSC is not below PRESCALE_N
  (10_state.md R38; 93_implementation_defined.md I10; log entry 7). Safe. -/
  | pscOutsideModel
  deriving DecidableEq, Repr

/-- The machine right after reset (70_reset_and_hazards.md R140; 10_state.md R20). The fields that
are not the block's registers are named in log entries 1, 3, 4 and 5, and power-up in 8. -/
def State.reset : State :=
  { active := false, base := 0, cursor := 0, repeatFlag := false, code := 0, bits := 0,
    faultLed := false, hbLed := false, cnt := 0, psc := 0,
    build := Build.hardware, mem := [], inputs := [], cycle := 0, wires := Wires.zero }

end Sys2Proof.Machine
end

