-- ==== Sys2Proof/Machine/Flags.lean ====
section
/-! DEFINITION. The next values of the one-bit registers and of the countdown. -/

namespace Sys2Proof.Machine

/-- ACTIVE after a start request: 1 for START, 0 for CANCEL (40_morse_encoder.md R80, R81). -/
def activeAfterStart (startNull : Bool) : Bool := !startNull

/-- The fault indicator's output mux (41_tick_scheduler.md R106). -/
def outputMux (faultWe faultBit startValid held : Bool) : Bool :=
  if faultWe then faultBit else if startValid then false else held

/-- The heartbeat duty (41_tick_scheduler.md R102). -/
def heartbeatNext (running hb : Bool) : Bool := if running then !hb else hb

/-- The countdown duty (41_tick_scheduler.md R103). -/
def countdownNext (cnt : Nat) : Nat := if cnt = 0 then 0 else cnt - 1

/-- The prescaler's strobe (41_tick_scheduler.md R100). -/
def prescalerTick (prescaleN psc : Nat) (rst clkEn : Bool) : Bool :=
  !rst && clkEn && psc == prescaleN - 1

/-- The prescaler's next count; in a reset cycle RESET writes it instead
(41_tick_scheduler.md R100, R101). -/
def prescalerNext (prescaleN psc : Nat) (rst clkEn : Bool) : Nat :=
  if !rst && clkEn then (if psc == prescaleN - 1 then 0 else psc + 1) else psc

end Sys2Proof.Machine
end

