-- ==== Sys2Proof/Machine/Ops.lean ====
section
/-! DEFINITION. The operations over the message memory and the registers that the meanings share.
The block takes no exception (60_exceptions.md R120, R125), so there is no exception entry here. -/

namespace Sys2Proof.Machine

/-- What a byte that nothing has placed in the message memory reads as (DESIGN CHOICE, log entry 5). -/
def Memory.unlisted : Byte := 0

/-- The byte at an address. -/
def Memory.read : Memory → Nat → Byte
  | [], _ => Memory.unlisted
  | (k, v) :: m, a => if k = a then v else Memory.read m a

/-- A cell is put in before the first cell of a higher address. -/
def Memory.put : Memory → Nat → Byte → Memory
  | [], a, v => [(a, v)]
  | (k, w) :: m, a, v => if a < k then (a, v) :: (k, w) :: m else (k, w) :: Memory.put m a v

/-- The cells of other addresses. -/
def Memory.without (m : Memory) (a : Nat) : Memory := m.filter (fun c => c.1 != a)

/-- A byte is written; the canonical form lists no byte equal to `Memory.unlisted`. -/
def Memory.write (m : Memory) (a : Nat) (v : Byte) : Memory :=
  if v = Memory.unlisted then Memory.without m a else Memory.put (Memory.without m a) a v

/-- The canonical form for a memory of `size` bytes: addresses strictly rising and below `size`, and no
byte equal to `Memory.unlisted`. -/
abbrev Memory.wf (size : Nat) (m : Memory) : Prop :=
  m.Pairwise (fun x y => x.1 < y.1) ∧ ∀ c ∈ m, c.1 < size ∧ c.2 ≠ Memory.unlisted

/-- The value an ADDR_W-bit port or register holds (00_scope.md R6; log entry 11). -/
def fitAddr (b : Build) (a : Nat) : Nat := a % 2 ^ b.addrW

/-- The value a CNT_W-bit port holds (00_scope.md R8; log entry 11). -/
def fitCount (b : Build) (v : Nat) : Nat := v % 2 ^ b.cntW

/-- The next character's address, modulo 2^ADDR_W (20_memory.md R46). -/
def nextAddr (b : Build) (a : Nat) : Nat := (a + 1) % 2 ^ b.addrW

/-- Writes of other agents reach the message memory (20_memory.md R40, R42), in the list's order
(DESIGN CHOICE, log entry 13). -/
def applyWrites (b : Build) : List (Nat × Byte) → Memory → Memory
  | [], m => m
  | (a, v) :: ws, m => applyWrites b ws (Memory.write m (fitAddr b a) v)

namespace State

/-- MemRead(addr, 1) (00_scope.md R14; 20_memory.md R42). -/
def memRead (s : State) (a : Nat) : Byte := Memory.read s.mem a

/-- The update that START and CANCEL share: all six session registers, and the mux's forced 0
(40_morse_encoder.md R80, R81; 41_tick_scheduler.md R106). -/
def replaceSession (s : State) (startNull : Bool) (addr : Nat) (rep : Bool) : State :=
  { s with
    active := activeAfterStart startNull
    base := addr
    cursor := addr
    repeatFlag := rep
    code := 0
    bits := 0
    faultLed := outputMux false false true s.faultLed }

/-- STEP drives its strobes 0 (40_morse_encoder.md R82, R83). -/
def quietStep (s : State) : State :=
  { s with wires := { s.wires with faultWe := false, faultBit := false, memAEn := false, memBEn := false } }

/-- STEP uses port A's data (20_memory.md R41). -/
def usePortA (s : State) : State := { s with wires := { s.wires with memAEn := true } }

/-- STEP uses port B's data (20_memory.md R41). -/
def usePortB (s : State) : State := { s with wires := { s.wires with memBEn := true } }

/-- STEP emits slot 0 of a code, shifts and counts (40_morse_encoder.md R88, R89); the mux takes the
bit (41_tick_scheduler.md R106). -/
def emitSlot (s : State) (code : Code) (bits : SlotCount) : State :=
  { s with
    code := code >>> 1
    bits := bits - 1
    faultLed := outputMux true (code.getLsbD 0) false s.faultLed
    wires := { s.wires with faultWe := true, faultBit := code.getLsbD 0 } }

/-- STEP consumes a character: CURSOR moves on, and slot 0 of its entry is emitted
(40_morse_encoder.md R84, R86). -/
def consume (s : State) (c : Byte) (next : Nat) : State :=
  { s with cursor := next }.emitSlot (lut c).code (lut c).bits

/-- STEP ends the session; every other register keeps its value (40_morse_encoder.md R85, R87). -/
def endSession (s : State) : State := { s with active := false }

/-- STEP's load tick (40_morse_encoder.md R84 to R87). -/
def loadTick (s : State) : State :=
  let c := s.memRead s.cursor
  let a := s.usePortA
  if c ≠ 0 then a.consume c (nextAddr s.build s.cursor)
  else if s.repeatFlag = false then a.endSession
  else
    let c' := s.memRead s.base
    let ab := a.usePortB
    if c' ≠ 0 then ab.consume c' (nextAddr s.build s.base) else ab.endSession

/-- The state after STEP (40_morse_encoder.md R82). -/
def encoderNext (s : State) : State :=
  let q := s.quietStep
  if s.active = false then q
  else if s.bits = 0 then q.loadTick
  else q.emitSlot s.code s.bits

/-- BITS holds a value that STEP would use and no rule gives a meaning (10_state.md R26;
93_implementation_defined.md I10). -/
def bitsOutsideModel (s : State) : Bool := s.active && decide (16 < s.bits.toNat)

/-- STEP, which TICK and STEP share (40_morse_encoder.md R82). -/
def encoderStep (s : State) : Host.Outcome State Fault Refusal :=
  if s.bitsOutsideModel then .refused .bitsOutsideModel else .next s.encoderNext

/-- The heartbeat duty (41_tick_scheduler.md R102). -/
def heartbeat (s : State) (running : Bool) : State := { s with hbLed := heartbeatNext running s.hbLed }

/-- The countdown duty (41_tick_scheduler.md R103). -/
def countdown (s : State) : State := { s with cnt := countdownNext s.cnt }

/-- CNT takes a value (41_tick_scheduler.md R104). -/
def setCnt (s : State) (v : Nat) : State := { s with cnt := v }

/-- Every strobe is 0 (41_tick_scheduler.md R108; 70_reset_and_hazards.md R142). -/
def quiet (s : State) : State :=
  { s with wires := { s.wires with
      tick := false, faultWe := false, faultBit := false, memAEn := false, memBEn := false } }

/-- Every register takes its reset value (70_reset_and_hazards.md R140). -/
def clearRegisters (s : State) : State :=
  { s with
    active := false, base := 0, cursor := 0, repeatFlag := false, code := 0, bits := 0,
    faultLed := false, hbLed := false, cnt := 0, psc := 0 }

end State

end Sys2Proof.Machine
end

