-- ==== Sys2Proof/Machine/Encoder.lean ====
section
/-! DEFINITION. The meanings of the MORSE_ENCODER operations (40_morse_encoder.md). -/

namespace Sys2Proof.Machine

/-- START (40_morse_encoder.md R80). -/
def execStart (addr : Nat) (rep : Bool) (s : State) : Host.Outcome State Fault Refusal :=
  .next (s.replaceSession false addr rep)

/-- CANCEL (40_morse_encoder.md R81). -/
def execCancel (addr : Nat) (rep : Bool) (s : State) : Host.Outcome State Fault Refusal :=
  .next (s.replaceSession true addr rep)

/-- STEP (40_morse_encoder.md R82). -/
def execStep (s : State) : Host.Outcome State Fault Refusal := s.encoderStep

end Sys2Proof.Machine
end

