-- ==== Sys2Proof/Machine/Scheduler.lean ====
section
/-! DEFINITION. The meanings of the TICK_SCHEDULER operations (41_tick_scheduler.md) and of RESET. -/

namespace Sys2Proof.Machine

/-- TICK: the three duties in the source's order (41_tick_scheduler.md R105). -/
def execTick (running : Bool) (s : State) : Host.Outcome State Fault Refusal :=
  ((s.heartbeat running).countdown).encoderStep

/-- LOAD_CNT (41_tick_scheduler.md R104). -/
def execLoadCnt (value : Nat) (s : State) : Host.Outcome State Fault Refusal :=
  .next (s.setCnt value)

/-- RESET (70_reset_and_hazards.md R140, R142). -/
def execReset (s : State) : Host.Outcome State Fault Refusal := .next s.clearRegisters.quiet

/-- NOP (41_tick_scheduler.md R108). -/
def execNop (s : State) : Host.Outcome State Fault Refusal := .next s.quiet

end Sys2Proof.Machine
end

