-- ==== Sys2Proof/Syntax.lean ====
section
/-! DEFINITION. The operations of the block: one constructor per row of spec/opcode_table.json. -/

namespace Sys2Proof

/-- The operations (00_scope.md R5; 30_encoding.md R61 to R65), with the operands the spec gives
each. The message bytes and the session, which TICK and STEP also read, are in the state. -/
inductive Instr where
  /-- START: `start_addr`, `start_repeat` (40_morse_encoder.md R80). -/
  | start (addr : Nat) (rep : Bool)
  /-- CANCEL: `start_addr`, `start_repeat` (40_morse_encoder.md R81). -/
  | cancel (addr : Nat) (rep : Bool)
  /-- LOAD_CNT: `cnt_load_value` (41_tick_scheduler.md R104). -/
  | loadCnt (value : Nat)
  /-- TICK: the level of `running` in the tick cycle (41_tick_scheduler.md R105). -/
  | tick (running : Bool)
  /-- STEP, the third duty of TICK (40_morse_encoder.md R82). -/
  | step
  /-- RESET (70_reset_and_hazards.md R140). -/
  | reset
  /-- NOP (41_tick_scheduler.md R108). -/
  | nop
  deriving DecidableEq, Repr

/-- What selects the operations of a cycle, and their operands (30_encoding.md R60): the event
vector {rst, tick, start_valid, start_null, start_repeat, cnt_load_valid}, the operand ports, and
the `running` level. -/
structure EventWord where
  ev           : EventVector
  startAddr    : Nat
  cntLoadValue : Nat
  running      : Bool
  deriving DecidableEq, Repr

end Sys2Proof
end

