-- ==== Sys2Proof/Machine/Dispatch.lean ====
section
/-! DEFINITION. One arm per operation: its meaning. -/

namespace Sys2Proof.Machine

def exec (i : Instr) (s : State) : Host.Outcome State Fault Refusal :=
  match i with
  | .start addr rep => Sys2Proof.Machine.execStart addr rep s
  | .cancel addr rep => Sys2Proof.Machine.execCancel addr rep s
  | .loadCnt value => Sys2Proof.Machine.execLoadCnt value s
  | .tick running => Sys2Proof.Machine.execTick running s
  | .step => Sys2Proof.Machine.execStep s
  | .reset => Sys2Proof.Machine.execReset s
  | .nop => Sys2Proof.Machine.execNop s

end Sys2Proof.Machine
end

