-- ==== Sys2Proof/WellFormed.lean ====
section
/-! DEFINITION. Which operations, and which lists of operations, one cycle may select. -/

namespace Sys2Proof

/-- START or CANCEL at the head of a list is taken off (at most one of the two, 30_encoding.md R66). -/
def dropSession : List Instr → List Instr
  | .start _ _ :: is => is
  | .cancel _ _ :: is => is
  | is => is

/-- TICK at the head of a list is taken off. -/
def dropTick : List Instr → List Instr
  | .tick _ :: is => is
  | is => is

/-- LOAD_CNT at the head of a list is taken off. -/
def dropLoad : List Instr → List Instr
  | .loadCnt _ :: is => is
  | is => is

/-- The lists of operations that one cycle can select, in the order of 41_tick_scheduler.md R110:
RESET alone, NOP alone, or at least one of START or CANCEL, TICK, LOAD_CNT, in that order
(30_encoding.md R65, R66). STEP is in no such list: it is not separately selectable (R64). -/
def cycleWellFormed (is : List Instr) : Bool :=
  is == [.reset] || is == [.nop] || (!is.isEmpty && (dropLoad (dropTick (dropSession is))).isEmpty)

/-- An operation that an event vector can select by itself. -/
def Instr.wellFormed (i : Instr) : Bool := cycleWellFormed [i]

/-- The operand fits the port that carries it in this build (00_scope.md R6, R8). -/
def Instr.fits (b : Build) : Instr → Bool
  | .start a _ => decide (a < 2 ^ b.addrW)
  | .cancel a _ => decide (a < 2 ^ b.addrW)
  | .loadCnt v => decide (v < 2 ^ b.cntW)
  | .tick _ => true
  | .step => true
  | .reset => true
  | .nop => true

end Sys2Proof
end

