-- ==== Sys2Proof/Decode.lean ====
section
/-! DEFINITION. From an event word, or its bytes, to the operations of a cycle; and the encoder. -/

namespace Sys2Proof

/-- A row of the opcode table (30_encoding.md R60): an operation is selected when
(EV & mask) == pattern. -/
structure OpcodeRow where
  mask    : EventVector
  pattern : EventVector
  deriving DecidableEq, Repr

/-- 30_encoding.md R60. -/
def OpcodeRow.selects (r : OpcodeRow) (ev : EventVector) : Bool := ev &&& r.mask == r.pattern

/-- 30_encoding.md R61. -/
def startRow : OpcodeRow := ⟨0b101100, 0b001000⟩
/-- 30_encoding.md R62. -/
def cancelRow : OpcodeRow := ⟨0b101100, 0b001100⟩
/-- 30_encoding.md R63. -/
def loadCntRow : OpcodeRow := ⟨0b100001, 0b000001⟩
/-- 30_encoding.md R64: TICK, and the STEP it contains. -/
def tickRow : OpcodeRow := ⟨0b110000, 0b010000⟩
/-- 30_encoding.md R65. -/
def resetRow : OpcodeRow := ⟨0b100000, 0b100000⟩
/-- 30_encoding.md R65. -/
def nopRow : OpcodeRow := ⟨0b111001, 0b000000⟩

/-- `start_repeat` is EV[1] (30_encoding.md R60). -/
def evStartRepeat (ev : EventVector) : Bool := ev.getLsbD 1

/-- The START or CANCEL of a cycle, if one is selected. -/
def decodeSession (w : EventWord) : List Instr :=
  if startRow.selects w.ev then [.start w.startAddr (evStartRepeat w.ev)]
  else if cancelRow.selects w.ev then [.cancel w.startAddr (evStartRepeat w.ev)]
  else []

/-- The TICK of a cycle, if it is selected. -/
def decodeTick (w : EventWord) : List Instr :=
  if tickRow.selects w.ev then [.tick w.running] else []

/-- The LOAD_CNT of a cycle, if it is selected. -/
def decodeLoad (w : EventWord) : List Instr :=
  if loadCntRow.selects w.ev then [.loadCnt w.cntLoadValue] else []

/-- The operations of a cycle in the order in which they act (30_encoding.md R61 to R66;
41_tick_scheduler.md R110). Every event vector is legal (R66). -/
def decodeEvent (w : EventWord) : List Instr :=
  if resetRow.selects w.ev then [.reset]
  else if nopRow.selects w.ev then [.nop]
  else decodeSession w ++ decodeTick w ++ decodeLoad w

/-! ### The event word as bytes

The spec gives the event vector its six bits and leaves the operands on ports of their own. The byte
layout below is a DESIGN CHOICE (log entry 6): byte 0 holds EV in bits 5..0; then come `start_addr` and
`cnt_load_value`, each in as many bytes as its port's width takes, least significant byte first; bit 0
of the last byte holds `running`. Every other bit is no part of the event word and is 0. -/

/-- Number of bytes of `start_addr`. -/
def addrBytes (b : Build) : Nat := (b.addrW + 7) / 8

/-- Number of bytes of `cnt_load_value`. -/
def countBytes (b : Build) : Nat := (b.cntW + 7) / 8

/-- Number of bytes of an event word. -/
def wordBytes (b : Build) : Nat := 1 + addrBytes b + countBytes b + 1

/-- Why bytes are no event word. -/
inductive DecodeError where
  /-- Fewer bytes than an event word has. Safe: nothing runs. -/
  | truncated
  /-- A bit above EV in byte 0 is not 0. Safe: nothing runs. -/
  | paddingBesideEvent
  /-- A bit above `start_addr` in its bytes is not 0. Safe: nothing runs. -/
  | paddingBesideAddress
  /-- A bit above `cnt_load_value` in its bytes is not 0. Safe: nothing runs. -/
  | paddingBesideCount
  /-- A bit above `running` in the last byte is not 0. Safe: nothing runs. -/
  | paddingBesideRunning
  deriving DecidableEq, Repr

/-- The number that bytes stand for, the first byte least significant. -/
def ofBytes : List Byte → Nat
  | [] => 0
  | b :: bs => b.toNat + 256 * ofBytes bs

/-- The first `k` bytes of a number, least significant first. -/
def toBytes : Nat → Nat → List Byte
  | 0, _ => []
  | k + 1, n => BitVec.ofNat 8 n :: toBytes k (n / 256)

/-- The number that `k` bytes from place `i` on stand for. -/
def field (i k : Nat) (bs : List Byte) : Nat := ofBytes ((bs.drop i).take k)

/-- Byte 0. -/
def eventField (bs : List Byte) : Nat := field 0 1 bs

/-- The bytes of `start_addr`. -/
def addrField (b : Build) (bs : List Byte) : Nat := field 1 (addrBytes b) bs

/-- The bytes of `cnt_load_value`. -/
def countField (b : Build) (bs : List Byte) : Nat := field (1 + addrBytes b) (countBytes b) bs

/-- The last byte. -/
def runningField (b : Build) (bs : List Byte) : Nat := field (1 + addrBytes b + countBytes b) 1 bs

/-- The event word that the first bytes of a list hold, the bits beside it left out. -/
def eventWordOfBytes (b : Build) (bs : List Byte) : EventWord :=
  { ev := BitVec.ofNat 6 (eventField bs)
    startAddr := addrField b bs % 2 ^ b.addrW
    cntLoadValue := countField b bs % 2 ^ b.cntW
    running := runningField b bs % 2 == 1 }

/-- Reads an event word from the first bytes of a list. -/
def readEventWord (b : Build) (bs : List Byte) : Except DecodeError (EventWord × List Byte) :=
  if bs.length < wordBytes b then .error .truncated
  else if 2 ^ 6 ≤ eventField bs then .error .paddingBesideEvent
  else if 2 ^ b.addrW ≤ addrField b bs then .error .paddingBesideAddress
  else if 2 ^ b.cntW ≤ countField b bs then .error .paddingBesideCount
  else if 2 ≤ runningField b bs then .error .paddingBesideRunning
  else .ok (eventWordOfBytes b bs, bs.drop (wordBytes b))

/-- The operations that the first bytes of a list select, and the bytes that follow. -/
def decodeBytes (b : Build) (bs : List Byte) : Except DecodeError (List Instr × List Byte) :=
  match readEventWord b bs with
  | .error e => .error e
  | .ok (w, rest) => .ok (decodeEvent w, rest)

/-! ### The encoder -/

/-- The bytes of an event word. -/
def encodeWord (b : Build) (w : EventWord) : List Byte :=
  toBytes 1 w.ev.toNat ++ toBytes (addrBytes b) w.startAddr ++ toBytes (countBytes b) w.cntLoadValue ++
    toBytes 1 w.running.toNat

/-- The event word of a cycle with no event. -/
def idleWord : EventWord := { ev := 0, startAddr := 0, cntLoadValue := 0, running := false }

/-- `start_repeat` in its place in EV (30_encoding.md R60). -/
def repeatBit (rep : Bool) : EventVector := if rep then 0b000010 else 0

/-- One operation's bits and operands are put into an event word (30_encoding.md R61 to R65). -/
def addToWord (w : EventWord) : Instr → EventWord
  | .start a r => { w with ev := w.ev ||| startRow.pattern ||| repeatBit r, startAddr := a }
  | .cancel a r => { w with ev := w.ev ||| cancelRow.pattern ||| repeatBit r, startAddr := a }
  | .loadCnt v => { w with ev := w.ev ||| loadCntRow.pattern, cntLoadValue := v }
  | .tick running => { w with ev := w.ev ||| tickRow.pattern, running := running }
  | .step => { w with ev := w.ev ||| tickRow.pattern }
  | .reset => { w with ev := w.ev ||| resetRow.pattern }
  | .nop => { w with ev := w.ev ||| nopRow.pattern }

/-- The event word of a cycle's operations. -/
def encodeEvent (is : List Instr) : EventWord := is.foldl addToWord idleWord

/-- The bytes of a cycle's operations. -/
def encodeCycle (b : Build) (is : List Instr) : List Byte := encodeWord b (encodeEvent is)

/-- The bytes of one operation. -/
def encode (b : Build) (i : Instr) : List Byte := encodeCycle b [i]

/-- In the hardware's build, the operation the decoder reads from the table's word `w` of `nbits` bits,
every bit above them 0: where the word selects several operations, the one that acts first
(log entry 9). -/
def decodeTableWord (nbits w : Nat) : Option Instr :=
  match decodeBytes Build.hardware (toBytes (wordBytes Build.hardware) (w % 2 ^ nbits)) with
  | .ok (i :: _, _) => some i
  | _ => none

end Sys2Proof
end

