-- ==== Sys2Proof/Machine/Operands.lean ====
section
/-! DEFINITION. The inputs of the current cycle, the prescaler's strobe, and the event word with its
operands. -/

namespace Sys2Proof.Machine.State

/-- The inputs of the current cycle: the next listed ones, or the free inputs (log entry 3). -/
def currentInput (s : State) : CycleIn :=
  match s.inputs with
  | c :: _ => c
  | [] => Config.freeCycle s.cycle

/-- The `tick` strobe of the current cycle (41_tick_scheduler.md R100). -/
def tickNow (s : State) : Bool :=
  prescalerTick s.build.prescaleN s.psc s.currentInput.rst s.currentInput.clkEn

/-- The prescaler would use a PSC that is not below PRESCALE_N (10_state.md R38;
93_implementation_defined.md I10). -/
def pscOutsideModel (s : State) : Bool :=
  !s.currentInput.rst && s.currentInput.clkEn && decide (s.build.prescaleN ≤ s.psc)

/-- EV[5:0] = {rst, tick, start_valid, start_null, start_repeat, cnt_load_valid}
(30_encoding.md R60). -/
def eventVector (rst tick startValid startNull startRepeat cntLoadValid : Bool) : EventVector :=
  BitVec.ofNat 6 (32 * rst.toNat + 16 * tick.toNat + 8 * startValid.toNat + 4 * startNull.toNat
    + 2 * startRepeat.toNat + cntLoadValid.toNat)

/-- The event word of the current cycle. The operands are the ports' values, unchanged
(30_encoding.md R60, R73); a port carries ADDR_W or CNT_W bits (10_state.md R33). -/
def eventWord (s : State) : EventWord :=
  let c := s.currentInput
  { ev := eventVector c.rst s.tickNow c.startValid c.startNull c.startRepeat c.cntLoadValid
    startAddr := fitAddr s.build c.startAddr
    cntLoadValue := fitCount s.build c.cntLoadValue
    running := c.running }

/-- `mem_a_addr` (20_memory.md R41). In a reset cycle with a start request it is `start_addr`: R41 says
"in every cycle", 70_reset_and_hazards.md R141 that such a START has no effect (DEDUCED, log entry 17).
While ACTIVE = 0 it shows CURSOR (log entry 18). -/
def portAAddr (s : State) : Nat :=
  if s.currentInput.startValid then fitAddr s.build s.currentInput.startAddr else s.cursor

/-- `mem_b_addr` (20_memory.md R41). While ACTIVE = 0 too it shows BASE, as R41 and
41_tick_scheduler.md R108 have it, where 10_state.md R22 says that BASE then has no effect on any output
(DEDUCED, log entry 18). In a reset cycle with a start request it is `start_addr` (log entry 17). -/
def portBAddr (s : State) : Nat :=
  if s.currentInput.startValid then fitAddr s.build s.currentInput.startAddr else s.base

end Sys2Proof.Machine.State
end

