-- ==== Sys2Proof/Machine/Cycle.lean ====
section
/-! DEFINITION. One clock cycle: the prescaler, the operations the event word selects, and the writes of
other agents to the message memory. -/

namespace Sys2Proof.Machine

/-- Operations act one after the other. In the order that `decodeEvent` gives them this is the
composition of 41_tick_scheduler.md R110. -/
def runOps : List Instr → State → Host.Outcome State Fault Refusal
  | [], s => .next s
  | i :: is, s =>
    match exec i s with
    | .next t => runOps is t
    | .fault f => .fault f
    | .refused r => .refused r

namespace State

/-- The cycle opens: its inputs are taken, the prescaler counts (41_tick_scheduler.md R100), and the
outputs show the strobe and the read addresses (10_state.md R34; 20_memory.md R41). -/
def openCycle (s : State) : State :=
  { s with
    psc := prescalerNext s.build.prescaleN s.psc s.currentInput.rst s.currentInput.clkEn
    inputs := s.inputs.tail
    cycle := s.cycle + 1
    wires := { Wires.zero with tick := s.tickNow, memAAddr := s.portAAddr, memBAddr := s.portBAddr } }

/-- The cycle closes: other agents' writes of this cycle are in the memory from the next cycle on
(20_memory.md R42). -/
def closeCycle (ws : List (Nat × Byte)) (s : State) : State :=
  { s with mem := applyWrites s.build ws s.mem }

/-- An outcome's next state closes its cycle. -/
def closing (ws : List (Nat × Byte)) :
    Host.Outcome State Fault Refusal → Host.Outcome State Fault Refusal
  | .next t => .next (t.closeCycle ws)
  | .fault f => .fault f
  | .refused r => .refused r

/-- One clock cycle (00_scope.md R5, R13). -/
def runCycle (s : State) : Host.Outcome State Fault Refusal :=
  if s.pscOutsideModel then .refused .pscOutsideModel
  else closing s.currentInput.memWrites (runOps (decodeEvent s.eventWord) s.openCycle)

/-- The ports that make the prescaled event word `w`: `clk_en` is driven where `w` has a tick. -/
def portsOfWord (w : EventWord) : CycleIn :=
  { rst := w.ev.getLsbD 5
    clkEn := w.ev.getLsbD 4
    running := w.running
    startValid := w.ev.getLsbD 3
    startNull := w.ev.getLsbD 2
    startAddr := w.startAddr
    startRepeat := w.ev.getLsbD 1
    cntLoadValid := w.ev.getLsbD 0
    cntLoadValue := w.cntLoadValue }

/-- The next cycle's event word becomes `w`: its ports are the next inputs, and where it has a tick
the prescaler stands one before it. -/
def placeWord (s : State) (w : EventWord) : State :=
  { s with
    inputs := portsOfWord w :: s.inputs
    psc := if w.ev.getLsbD 4 then s.build.prescaleN - 1 else s.psc }

end State

end Sys2Proof.Machine
end

