-- ==== Sys2Proof/Machine/Step.lean ====
section
/-! DEFINITION. One step of the machine is one clock cycle. -/

namespace Sys2Proof.Machine

/-- One clock cycle (00_scope.md R5, R13). -/
def step (s : State) : Host.Outcome State Fault Refusal := s.runCycle

/-- The state whose next step runs the table's word `w` of `nbits` bits (log entry 3). -/
def State.withFetchWord (s : State) (nbits w : Nat) : State :=
  s.placeWord (eventWordOfBytes s.build (toBytes (wordBytes s.build) (w % 2 ^ nbits)))

end Sys2Proof.Machine
end

