-- ==== Sys2Proof/Machine/Reference.lean ====
section
/-! DEFINITION. The next-state function of 41_tick_scheduler.md R110 as its pseudocode has it: one
combinational evaluation of the current registers and inputs, without operations that act one after
the other. The statements hold `step` against it; `step` does not call it. -/

namespace Sys2Proof.Machine.Reference

/-- The session registers as STEP sees them (R110, `s`). -/
structure Session where
  active     : Bool
  base       : Nat
  cursor     : Nat
  repeatFlag : Bool
  code       : Code
  bits       : SlotCount
  deriving DecidableEq, Repr

/-- The session STEP leaves, and the strobes it drives (40_morse_encoder.md R82). -/
structure StepResult where
  session  : Session
  faultWe  : Bool
  faultBit : Bool
  memAEn   : Bool
  memBEn   : Bool
  deriving DecidableEq, Repr

/-- The session registers. -/
def session (s : State) : Session :=
  { active := s.active, base := s.base, cursor := s.cursor, repeatFlag := s.repeatFlag,
    code := s.code, bits := s.bits }

/-- R110, part 2: the session after a start request of the same cycle. -/
def seen (s : State) : Session :=
  let c := s.currentInput
  if c.startValid then
    { active := !c.startNull, base := fitAddr s.build c.startAddr,
      cursor := fitAddr s.build c.startAddr, repeatFlag := c.startRepeat, code := 0, bits := 0 }
  else session s

/-- STEP finds the session over: the load tick's byte is 0x00, and the message does not repeat or is
empty (40_morse_encoder.md R85, R87). -/
def terminates (read : Nat → Byte) (v : Session) : Bool :=
  v.bits == 0 && read v.cursor == 0 && (!v.repeatFlag || read v.base == 0)

/-- STEP goes back to BASE for its character (40_morse_encoder.md R86). -/
def restarts (read : Nat → Byte) (v : Session) : Bool :=
  v.bits == 0 && read v.cursor == 0 && v.repeatFlag

/-- The (code, bits) that STEP emits from: the LUT's on a load tick, else the registers'
(40_morse_encoder.md R88). -/
def current (read : Nat → Byte) (v : Session) : LutEntry :=
  if v.bits == 0 then lut (read (if restarts read v then v.base else v.cursor)) else ⟨v.code, v.bits⟩

/-- CURSOR after an emitting STEP (40_morse_encoder.md R84, R86). -/
def cursorAfter (b : Build) (read : Nat → Byte) (v : Session) : Nat :=
  if v.bits == 0 then nextAddr b (if restarts read v then v.base else v.cursor) else v.cursor

/-- STEP (40_morse_encoder.md R82). -/
def stepFn (b : Build) (read : Nat → Byte) (v : Session) : StepResult :=
  if !v.active then
    { session := v, faultWe := false, faultBit := false, memAEn := false, memBEn := false }
  else if terminates read v then
    { session := { v with active := false }, faultWe := false, faultBit := false,
      memAEn := true, memBEn := v.repeatFlag }
  else
    { session := { v with
        cursor := cursorAfter b read v
        code := (current read v).code >>> 1
        bits := (current read v).bits - 1 }
      faultWe := true
      faultBit := (current read v).code.getLsbD 0
      memAEn := v.bits == 0
      memBEn := restarts read v }

/-- STEP of this cycle, or nothing where there is no tick (R110, part 3). -/
def stepOf (s : State) : StepResult :=
  if s.tickNow then stepFn s.build s.memRead (seen s)
  else { session := seen s, faultWe := false, faultBit := false, memAEn := false, memBEn := false }

/-- R110, parts 1, 3, 4 and 5 for a cycle with `rst` = 0, and the outputs of 10_state.md R34. -/
def running (s : State) : State :=
  let c := s.currentInput
  let r := stepOf s
  { active := r.session.active
    base := r.session.base
    cursor := r.session.cursor
    repeatFlag := r.session.repeatFlag
    code := r.session.code
    bits := r.session.bits
    faultLed := outputMux r.faultWe r.faultBit c.startValid s.faultLed
    hbLed := if s.tickNow then heartbeatNext c.running s.hbLed else s.hbLed
    cnt := if c.cntLoadValid then fitCount s.build c.cntLoadValue
           else if s.tickNow then countdownNext s.cnt else s.cnt
    psc := prescalerNext s.build.prescaleN s.psc c.rst c.clkEn
    build := s.build
    mem := applyWrites s.build c.memWrites s.mem
    inputs := s.inputs.tail
    cycle := s.cycle + 1
    wires := { tick := s.tickNow, faultWe := r.faultWe, faultBit := r.faultBit,
               memAAddr := (if c.startValid then fitAddr s.build c.startAddr else s.cursor),
               memAEn := r.memAEn,
               memBAddr := (if c.startValid then fitAddr s.build c.startAddr else s.base),
               memBEn := r.memBEn } }

/-- R110 for a cycle with `rst` = 1: every register takes its reset value and every strobe is 0. The read
addresses are R41's (log entry 17). -/
def resetting (s : State) : State :=
  let c := s.currentInput
  { State.reset with
    build := s.build
    mem := applyWrites s.build c.memWrites s.mem
    inputs := s.inputs.tail
    cycle := s.cycle + 1
    wires := { Wires.zero with
               memAAddr := (if c.startValid then fitAddr s.build c.startAddr else s.cursor)
               memBAddr := (if c.startValid then fitAddr s.build c.startAddr else s.base) } }

/-- 41_tick_scheduler.md R110, CYCLE. -/
def cycle (s : State) : State := if s.currentInput.rst then resetting s else running s

end Sys2Proof.Machine.Reference
end

