-- ==== Sys2Proof/Safety.lean ====
section
/-! DEFINITION. The terms in which claims are stated: the invariant, runs, the slots a run emits, and
messages in the message memory. -/

namespace Sys2Proof.Machine

/-- The invariant of the block (10_state.md R36 to R38; 41_tick_scheduler.md R107), with what makes it
inductive: the slot emitted last of a letter is off (30_encoding.md R71), registers fit their widths,
and the message memory keeps its canonical form. -/
structure State.Inv (s : State) : Prop where
  /-- A build the spec allows. -/
  buildOk   : s.build.Ok
  /-- PSC <= PRESCALE_N - 1 (R38). -/
  pscBelow  : s.psc < s.build.prescaleN
  /-- BITS <= 16 (R37). -/
  bitsLe    : s.bits.toNat ≤ 16
  /-- BITS > 0 implies ACTIVE = 1 (R37). -/
  bitsActive : s.bits ≠ 0 → s.active = true
  /-- CODE has no slot on from the last slot of the letter on; so CODE < 2^BITS, and CODE = 0 where
  BITS = 0 (R36). -/
  codeBelow : s.code.toNat < 2 ^ (s.bits.toNat - 1)
  /-- Between letters, and so while idle, the fault indicator is off (R107). -/
  ledOff    : s.bits = 0 → s.faultLed = false
  /-- BASE has ADDR_W bits (R22). -/
  baseFits  : s.base < 2 ^ s.build.addrW
  /-- CURSOR has ADDR_W bits (R23). -/
  cursorFits : s.cursor < 2 ^ s.build.addrW
  /-- CNT has CNT_W bits (R29). -/
  cntFits   : s.cnt < 2 ^ s.build.cntW
  /-- The message memory is in canonical form. -/
  memWf     : Memory.wf (2 ^ s.build.addrW) s.mem

/-- STEP has a meaning on the session: BITS is at most 16 while ACTIVE = 1 (10_state.md R37). -/
def State.StepReady (s : State) : Prop := s.active = true → s.bits.toNat ≤ 16

/-- `k` cycles, stopping at the first that has no next state. -/
def runCycles : Nat → State → Host.Outcome State Fault Refusal
  | 0, s => .next s
  | k + 1, s =>
    match step s with
    | .next t => runCycles k t
    | .fault f => .fault f
    | .refused r => .refused r

/-- What the cycle that led to a state put on the fault indicator's strobes: nothing where it was no
tick, else the bit of its step write, or `none` for a tick without one. -/
def tickSlot (t : State) : List (Option Bool) :=
  if t.wires.tick then [if t.wires.faultWe then some t.wires.faultBit else none] else []

/-- The slots of the ticks of the first `k` cycles, oldest first. -/
def slotTrace : Nat → State → List (Option Bool)
  | 0, _ => []
  | k + 1, s =>
    match step s with
    | .next t => tickSlot t ++ slotTrace k t
    | .fault _ => []
    | .refused _ => []

/-- The slots of a LUT entry in time order: slot i is code[i] (30_encoding.md R68). -/
def entrySlots (e : LutEntry) : List Bool := (List.range e.bits.toNat).map e.code.getLsbD

/-- The slots of a message in time order. -/
def messageSlots (cs : List Byte) : List Bool := cs.flatMap (fun c => entrySlots (lut c))

/-- The address `i` bytes after `a` (20_memory.md R46). -/
def addrAfter (b : Build) (a : Nat) (i : Nat) : Nat := (a + i) % 2 ^ b.addrW

/-- The message at `a` is `cs`: its bytes, none of them 0x00, and then the terminator
(20_memory.md R47). -/
def State.messageAt (s : State) (a : Nat) (cs : List Byte) : Prop :=
  (∀ i (h : i < cs.length), s.memRead (addrAfter s.build a i) = cs[i] ∧ cs[i] ≠ 0) ∧
    s.memRead (addrAfter s.build a cs.length) = 0

end Sys2Proof.Machine

namespace Sys2Proof

/-- No reset, no start request, and no write to the message memory. -/
def CycleIn.Undisturbed (c : CycleIn) : Prop := c.rst = false ∧ c.startValid = false ∧ c.memWrites = []

/-- The cycle starts the message at `a`, and nothing writes the message memory. -/
def CycleIn.Starts (c : CycleIn) (a : Nat) (rep : Bool) : Prop :=
  c.rst = false ∧ c.startValid = true ∧ c.startNull = false ∧ c.startAddr = a ∧ c.startRepeat = rep ∧
    c.memWrites = []

/-- Two cycles' inputs that differ at most in `running` and the counter load. -/
def CycleIn.SameForMorse (c d : CycleIn) : Prop :=
  d = { c with running := d.running, cntLoadValid := d.cntLoadValid, cntLoadValue := d.cntLoadValue }

/-- Two cycles' inputs that differ at most in the start port and the writes of other agents. -/
def CycleIn.SameForTimers (c d : CycleIn) : Prop :=
  d = { c with startValid := d.startValid, startNull := d.startNull, startAddr := d.startAddr,
               startRepeat := d.startRepeat, memWrites := d.memWrites }

end Sys2Proof
end

