-- ==== Sys2Proof/Certificates/Slice0/Obligations.lean ====
section
/-! DEFINITION. The statements for the provers. Each docstring names the rules of spec/ it formalises. -/

open Sys2Proof Sys2Proof.Machine

/-! ### Operations of MORSE_ENCODER -/

/-- R80 (40_morse_encoder.md): START, from every state; how it is encoded; an empty message at the
first tick; and a tick in the START's own cycle. -/
def Obligations.StartBeginsANewSession : Prop :=
  (∀ (a : Nat) (r : Bool) (s : State),
    exec (.start a r) s = .next { s with
      active := true, base := a, cursor := a, repeatFlag := r, code := 0, bits := 0,
      faultLed := false }) ∧
  (∀ w : EventWord, w.ev &&& 0b101100#6 = 0b001000#6 →
    Instr.start w.startAddr (w.ev.getLsbD 1) ∈ decodeEvent w) ∧
  (∀ (a : Nat) (r running : Bool) (s : State), s.memRead a = 0 →
    ∃ t, runOps [.start a r, .tick running] s = .next t ∧
      t.active = false ∧ t.wires.faultWe = false ∧ t.faultLed = false) ∧
  (∀ (a : Nat) (r running : Bool) (s : State), s.memRead a ≠ 0 →
    ∃ t, runOps [.start a r, .tick running] s = .next t ∧
      t.active = true ∧ t.base = a ∧ t.cursor = nextAddr s.build a ∧ t.repeatFlag = r ∧
      t.wires.faultWe = true ∧ t.wires.faultBit = (lut (s.memRead a)).code.getLsbD 0 ∧
      t.faultLed = (lut (s.memRead a)).code.getLsbD 0)

/-- R81 (40_morse_encoder.md): CANCEL, from every state; how it is encoded; and a tick in the
CANCEL's own cycle. -/
def Obligations.CancelEndsAnySession : Prop :=
  (∀ (a : Nat) (r : Bool) (s : State),
    exec (.cancel a r) s = .next { s with
      active := false, base := a, cursor := a, repeatFlag := r, code := 0, bits := 0,
      faultLed := false }) ∧
  (∀ w : EventWord, w.ev &&& 0b101100#6 = 0b001100#6 →
    Instr.cancel w.startAddr (w.ev.getLsbD 1) ∈ decodeEvent w) ∧
  (∀ (a : Nat) (r running : Bool) (s : State),
    ∃ t, runOps [.cancel a r, .tick running] s = .next t ∧
      t.active = false ∧ t.wires.faultWe = false ∧ t.wires.faultBit = false ∧ t.faultLed = false)

/-- R83 (40_morse_encoder.md): STEP while idle assigns no register and drives its strobes 0. -/
def Obligations.IdleStepHasNoEffect : Prop :=
  ∀ s : State, s.active = false →
    exec .step s = .next { s with wires := { s.wires with
      faultWe := false, faultBit := false, memAEn := false, memBEn := false } }

/-- R84, with the emission of R88 and R89 (40_morse_encoder.md): a load tick uses port A, and
consumes a byte that is not 0x00. -/
def Obligations.LoadTickConsumesACharacter : Prop :=
  (∀ s : State, s.active = true → s.bits = 0 →
    ∃ t, exec .step s = .next t ∧ t.wires.memAEn = true) ∧
  (∀ s : State, s.active = true → s.bits = 0 → s.memRead s.cursor ≠ 0 →
    exec .step s = .next { s with
      cursor := nextAddr s.build s.cursor
      code := (lut (s.memRead s.cursor)).code >>> 1
      bits := (lut (s.memRead s.cursor)).bits - 1
      faultLed := (lut (s.memRead s.cursor)).code.getLsbD 0
      wires := { s.wires with
        faultWe := true, faultBit := (lut (s.memRead s.cursor)).code.getLsbD 0,
        memAEn := true, memBEn := false } })

/-- R85 (40_morse_encoder.md): the terminator of a message that does not repeat; and no later tick
writes. -/
def Obligations.TerminatorEndsANonRepeatingSession : Prop :=
  ∀ s : State, s.active = true → s.bits = 0 → s.memRead s.cursor = 0 → s.repeatFlag = false →
    ∃ t, exec .step s = .next t ∧
      t = { s with
        active := false
        wires := { s.wires with
          faultWe := false, faultBit := false, memAEn := true, memBEn := false } } ∧
      ∀ rs : List Bool, ∃ u, runOps (rs.map Instr.tick) t = .next u ∧
        u.wires.faultWe = false ∧ u.active = false ∧ u.faultLed = s.faultLed

/-- R86, with the emission of R88 and R89 (40_morse_encoder.md): the terminator of a message that
repeats uses port B, and restarts the message in the same tick. -/
def Obligations.TerminatorRestartsARepeatingSession : Prop :=
  (∀ s : State, s.active = true → s.bits = 0 → s.memRead s.cursor = 0 → s.repeatFlag = true →
    ∃ t, exec .step s = .next t ∧ t.wires.memBEn = true) ∧
  (∀ s : State, s.active = true → s.bits = 0 → s.memRead s.cursor = 0 → s.repeatFlag = true →
    s.memRead s.base ≠ 0 →
    exec .step s = .next { s with
      cursor := nextAddr s.build s.base
      code := (lut (s.memRead s.base)).code >>> 1
      bits := (lut (s.memRead s.base)).bits - 1
      faultLed := (lut (s.memRead s.base)).code.getLsbD 0
      wires := { s.wires with
        faultWe := true, faultBit := (lut (s.memRead s.base)).code.getLsbD 0,
        memAEn := true, memBEn := true } })

/-- R87 (40_morse_encoder.md): a restart that finds 0x00 at BASE. -/
def Obligations.EmptyRestartEndsTheSession : Prop :=
  ∀ s : State, s.active = true → s.bits = 0 → s.memRead s.cursor = 0 → s.repeatFlag = true →
    s.memRead s.base = 0 →
    exec .step s = .next { s with
      active := false
      wires := { s.wires with
        faultWe := false, faultBit := false, memAEn := true, memBEn := true } }

/-- R88 and R89 (40_morse_encoder.md), inside a letter: the registers' slot is emitted, CODE shifts
and BITS counts; no memory is used. -/
def Obligations.MidLetterStepEmitsAndShifts : Prop :=
  ∀ s : State, s.active = true → s.bits ≠ 0 → s.bits.toNat ≤ 16 →
    exec .step s = .next { s with
      code := s.code >>> 1
      bits := s.bits - 1
      faultLed := s.code.getLsbD 0
      wires := { s.wires with
        faultWe := true, faultBit := s.code.getLsbD 0, memAEn := false, memBEn := false } }

/-- R82 (40_morse_encoder.md): STEP completes wherever BITS has a meaning, and the frame of STEP. -/
def Obligations.StepCompletesAndKeepsTheRest : Prop :=
  ∀ s : State, s.StepReady →
    ∃ t, exec .step s = .next t ∧
      t.base = s.base ∧ t.repeatFlag = s.repeatFlag ∧ t.hbLed = s.hbLed ∧ t.cnt = s.cnt ∧
      t.psc = s.psc ∧ t.build = s.build ∧ (∀ a, t.memRead a = s.memRead a) ∧ t.mem = s.mem ∧
      t.inputs = s.inputs ∧ t.cycle = s.cycle ∧ t.wires.tick = s.wires.tick ∧
      t.wires.memAAddr = s.wires.memAAddr ∧ t.wires.memBAddr = s.wires.memBAddr ∧
      (t.active = true → s.active = true) ∧ t.StepReady

/-! ### Operations of TICK_SCHEDULER, RESET and NOP -/

/-- R105, with the duties of R102 and R103 (41_tick_scheduler.md): TICK is the heartbeat duty, the
countdown duty and STEP, none of which depends on another; its encoding; at most one per cycle. -/
def Obligations.TickRunsItsThreeDuties : Prop :=
  (∀ (running : Bool) (s : State), s.StepReady →
    ∃ u, exec .step s = .next u ∧
      exec (.tick running) s = .next { u with
        hbLed := if running then !s.hbLed else s.hbLed
        cnt := if s.cnt = 0 then 0 else s.cnt - 1 }) ∧
  (∀ w : EventWord, w.ev &&& 0b110000#6 = 0b010000#6 → Instr.tick w.running ∈ decodeEvent w) ∧
  (∀ w : EventWord, ((decodeEvent w).filter fun i => i matches .tick _).length ≤ 1)

/-- R104 (41_tick_scheduler.md): LOAD_CNT, from every state; its encoding; a load in a tick cycle,
whose decrement is lost; and the ticks over which a loaded value counts down. -/
def Obligations.LoadCntReplacesTheCounter : Prop :=
  (∀ (v : Nat) (s : State), exec (.loadCnt v) s = .next { s with cnt := v }) ∧
  (∀ w : EventWord, w.ev &&& 0b100001#6 = 0b000001#6 →
    Instr.loadCnt w.cntLoadValue ∈ decodeEvent w) ∧
  (∀ (running : Bool) (v : Nat) (s : State), s.StepReady →
    ∃ t u, exec (.tick running) s = .next t ∧
      runOps [.tick running, .loadCnt v] s = .next u ∧ u = { t with cnt := v }) ∧
  (∀ (v : Nat) (rs : List Bool) (s : State), s.StepReady →
    ∃ t, runOps (.loadCnt v :: rs.map Instr.tick) s = .next t ∧
      t.cnt = v - rs.length)

/-- R140 and R142 (70_reset_and_hazards.md), as an operation: RESET completes from every state,
every register takes its reset value, the strobes are 0, and nothing else changes. -/
def Obligations.ResetClearsEveryRegister : Prop :=
  ∀ s : State, exec .reset s = .next { s with
    active := false, base := 0, cursor := 0, repeatFlag := false, code := 0, bits := 0,
    faultLed := false, hbLed := false, cnt := 0, psc := 0,
    wires := { s.wires with
      tick := false, faultWe := false, faultBit := false, memAEn := false, memBEn := false } }

/-- NOP as an operation completes from every state and changes no register. That PSC, which R108
(41_tick_scheduler.md) lets advance in a NOP cycle, is counted outside the operation is the model's choice
(log entry 14); `NopCycleOnlyCounts` states R108 of the cycle. -/
def Obligations.NopChangesNoRegister : Prop :=
  ∀ s : State, exec .nop s = .next { s with wires := { s.wires with
    tick := false, faultWe := false, faultBit := false, memAEn := false, memBEn := false } }

/-- 93_implementation_defined.md I10 with R26 (10_state.md); the refusal is log entry 7: STEP and
TICK stop exactly on an active session whose BITS no rule gives a meaning, and no other operation
stops. -/
def Obligations.OnlyMeaninglessBitsStopAnOperation : Prop :=
  (∀ (i : Instr) (s : State), (∀ r, exec i s ≠ .refused r) ∨
    ((i = .step ∨ ∃ running, i = .tick running) ∧ s.active = true ∧ 16 < s.bits.toNat ∧
      exec i s = .refused .bitsOutsideModel)) ∧
  (∀ s : State, s.active = true → 16 < s.bits.toNat →
    exec .step s = .refused .bitsOutsideModel ∧
      ∀ running, exec (.tick running) s = .refused .bitsOutsideModel) ∧
  (∀ (i : Instr) (s : State) (f : Fault), exec i s ≠ .fault f)

/-- R40 (20_memory.md): no operation writes the message memory, and START, CANCEL, LOAD_CNT, RESET
and NOP do not read it. -/
def Obligations.OperationsNeverWriteTheMessageMemory : Prop :=
  (∀ (i : Instr) (s t : State), exec i s = .next t →
    (∀ a, t.memRead a = s.memRead a) ∧ t.mem = s.mem ∧ t.build = s.build ∧ t.inputs = s.inputs ∧
      t.cycle = s.cycle) ∧
  (∀ (i : Instr) (s t : State) (m : Memory), i ≠ .step → (∀ running, i ≠ .tick running) →
    exec i s = .next t → exec i { s with mem := m } = .next { t with mem := m })

/-! ### Encoding -/

/-- R60 (30_encoding.md): the event vector of a cycle, its operand fields, and `tick` in a reset
cycle. -/
def Obligations.EventVectorIsFormedFromThePorts : Prop :=
  ∀ s : State,
    s.eventWord.ev.getLsbD 5 = s.currentInput.rst ∧
    s.eventWord.ev.getLsbD 4 = s.tickNow ∧
    s.eventWord.ev.getLsbD 3 = s.currentInput.startValid ∧
    s.eventWord.ev.getLsbD 2 = s.currentInput.startNull ∧
    s.eventWord.ev.getLsbD 1 = s.currentInput.startRepeat ∧
    s.eventWord.ev.getLsbD 0 = s.currentInput.cntLoadValid ∧
    s.eventWord.startAddr = s.currentInput.startAddr % 2 ^ s.build.addrW ∧
    s.eventWord.cntLoadValue = s.currentInput.cntLoadValue % 2 ^ s.build.cntW ∧
    s.eventWord.running = s.currentInput.running ∧
    (s.currentInput.rst = true → s.eventWord.ev.getLsbD 4 = false)

/-- R61 to R65 (30_encoding.md): each operation is selected exactly by its mask and match, with its
operands; RESET overrides every other bit; STEP is in TICK and is not selected by itself. -/
def Obligations.SelectionFollowsTheMasks : Prop :=
  ∀ w : EventWord,
    (∀ a r, Instr.start a r ∈ decodeEvent w ↔
      w.ev &&& 0b101100#6 = 0b001000#6 ∧ a = w.startAddr ∧ r = w.ev.getLsbD 1) ∧
    (∀ a r, Instr.cancel a r ∈ decodeEvent w ↔
      w.ev &&& 0b101100#6 = 0b001100#6 ∧ a = w.startAddr ∧ r = w.ev.getLsbD 1) ∧
    (∀ v, Instr.loadCnt v ∈ decodeEvent w ↔
      w.ev &&& 0b100001#6 = 0b000001#6 ∧ v = w.cntLoadValue) ∧
    (∀ r, Instr.tick r ∈ decodeEvent w ↔ w.ev &&& 0b110000#6 = 0b010000#6 ∧ r = w.running) ∧
    (Instr.reset ∈ decodeEvent w ↔ w.ev &&& 0b100000#6 = 0b100000#6) ∧
    (w.ev &&& 0b100000#6 = 0b100000#6 → decodeEvent w = [.reset]) ∧
    (Instr.nop ∈ decodeEvent w ↔ w.ev &&& 0b111001#6 = 0b000000#6) ∧
    Instr.step ∉ decodeEvent w

/-- R66 (30_encoding.md): every event vector is legal, START or CANCEL, LOAD_CNT and TICK are
selected in any combination, and the fields of an absent request are ignored. -/
def Obligations.EveryEventVectorIsLegal : Prop :=
  (∀ w : EventWord, cycleWellFormed (decodeEvent w) = true) ∧
  (∀ (session : Option Instr) (running : Option Bool) (load : Option Nat),
    (∀ i, session = some i → (∃ a r, i = .start a r) ∨ ∃ a r, i = .cancel a r) →
    ¬ (session = none ∧ running = none ∧ load = none) →
    ∃ w : EventWord, w.ev.getLsbD 5 = false ∧
      decodeEvent w =
        session.toList ++ (running.map Instr.tick).toList ++ (load.map Instr.loadCnt).toList) ∧
  (∀ w w' : EventWord,
    w.ev.getLsbD 5 = w'.ev.getLsbD 5 → w.ev.getLsbD 4 = w'.ev.getLsbD 4 →
    w.ev.getLsbD 3 = w'.ev.getLsbD 3 → w.ev.getLsbD 0 = w'.ev.getLsbD 0 → w.running = w'.running →
    (w.ev.getLsbD 3 = true → w.ev.getLsbD 2 = w'.ev.getLsbD 2 ∧
      w.ev.getLsbD 1 = w'.ev.getLsbD 1 ∧ w.startAddr = w'.startAddr) →
    (w.ev.getLsbD 0 = true → w.cntLoadValue = w'.cntLoadValue) →
    decodeEvent w = decodeEvent w')

/-- 30_encoding.md R61 to R65: words written out from the masks and matches. The byte layout beside
the event vector is the model's choice (log entry 6). -/
def Obligations.WrittenWordsDecode : Prop :=
  decodeTableWord 8 0b00001000 = some (.start 0 false) ∧
  decodeTableWord 8 0b00001010 = some (.start 0 true) ∧
  decodeTableWord 8 0b00001100 = some (.cancel 0 false) ∧
  decodeTableWord 8 0b00000001 = some (.loadCnt 0) ∧
  decodeTableWord 8 0b00010000 = some (.tick false) ∧
  decodeTableWord 8 0b00100000 = some .reset ∧
  decodeTableWord 8 0b00000000 = some .nop ∧
  decodeEvent ⟨0b011011#6, 0x100, 3, true⟩ = [.start 0x100 true, .tick true, .loadCnt 3] ∧
  decodeEvent ⟨0b111111#6, 0x100, 3, true⟩ = [.reset]

/-- 30_encoding.md R60 to R66, with the ports' widths of 00_scope.md R6 and R8: in every build, decoding
the encoded operations of a cycle gives them back, with every operand that fits its port, whatever
bytes follow. The byte layout is the model's choice (log entry 6). -/
def Obligations.DecodingAnEncodedCycleGivesItBack : Prop :=
  ∀ (b : Build) (is : List Instr) (rest : List Byte), cycleWellFormed is = true →
    (∀ i ∈ is, i.fits b = true) → decodeBytes b (encodeCycle b is ++ rest) = .ok (is, rest)

/-- The decoder refuses by name what is no event word of the build, and nothing else; what it accepts is
the encoding of a well-formed cycle. The byte layout is the model's choice (log entry 6). -/
def Obligations.BytesAreRefusedByName : Prop :=
  ∀ (b : Build) (bs : List Byte),
    (bs.length < wordBytes b → decodeBytes b bs = .error .truncated) ∧
    (wordBytes b ≤ bs.length → 64 ≤ (bs.getD 0 0).toNat →
      decodeBytes b bs = .error .paddingBesideEvent) ∧
    (wordBytes b ≤ bs.length → (bs.getD 0 0).toNat < 64 → 2 ^ b.addrW ≤ addrField b bs →
      decodeBytes b bs = .error .paddingBesideAddress) ∧
    (wordBytes b ≤ bs.length → (bs.getD 0 0).toNat < 64 → addrField b bs < 2 ^ b.addrW →
      2 ^ b.cntW ≤ countField b bs → decodeBytes b bs = .error .paddingBesideCount) ∧
    (wordBytes b ≤ bs.length → (bs.getD 0 0).toNat < 64 → addrField b bs < 2 ^ b.addrW →
      countField b bs < 2 ^ b.cntW → 2 ≤ (bs.getD (wordBytes b - 1) 0).toNat →
      decodeBytes b bs = .error .paddingBesideRunning) ∧
    (wordBytes b ≤ bs.length → (bs.getD 0 0).toNat < 64 → addrField b bs < 2 ^ b.addrW →
      countField b bs < 2 ^ b.cntW → (bs.getD (wordBytes b - 1) 0).toNat < 2 →
      ∃ is, decodeBytes b bs = .ok (is, bs.drop (wordBytes b))) ∧
    (∀ is rest, decodeBytes b bs = .ok (is, rest) →
      cycleWellFormed is = true ∧ (∀ i ∈ is, i.fits b = true) ∧
        ∃ w, decodeEvent w = is ∧ bs = encodeWord b w ++ rest)

/-! ### One cycle -/

/-- Every cycle's event word decodes to well-formed operations whose operands fit the build's ports,
and `step` runs exactly them. That they run one after the other on a cycle as opened (inputs taken,
prescaler counted, outputs shown), and that the cycle closes with the writes of other agents, is the
model's choice (log entry 14, held against the spec's one evaluation by `StepIsTheNextStateFunction`); so
are the bytes (log entry 6), the list of inputs and the cycle counter (log entry 3), and the order of the
writes (log entry 13). -/
def Obligations.StepRunsTheDecodedOperations : Prop :=
  ∀ s : State, ∃ is,
    decodeBytes s.build (encodeWord s.build s.eventWord) = .ok (is, []) ∧ cycleWellFormed is = true ∧
    (s.pscOutsideModel = false →
      step s = State.closing s.currentInput.memWrites (runOps is s.openCycle)) ∧
    (∀ i ∈ is, i.fits s.build = true) ∧
    (∀ i t, s.pscOutsideModel = false → is = [i] → exec i s.openCycle = .next t →
      step s = .next { t with mem := applyWrites t.build s.currentInput.memWrites t.mem }) ∧
    s.openCycle = { s with
      psc := prescalerNext s.build.prescaleN s.psc s.currentInput.rst s.currentInput.clkEn
      inputs := s.inputs.tail
      cycle := s.cycle + 1
      wires := { tick := s.tickNow, faultWe := false, faultBit := false,
                 memAAddr := s.portAAddr, memAEn := false,
                 memBAddr := s.portBAddr, memBEn := false } }

/-- R110 (41_tick_scheduler.md): a cycle's operations, run one after the other, are the next-state
function of R110, evaluated at once. -/
def Obligations.StepIsTheNextStateFunction : Prop :=
  ∀ s : State, s.pscOutsideModel = false →
    (s.tickNow = true → (Reference.seen s).active = true → (Reference.seen s).bits.toNat ≤ 16) →
    step s = .next (Reference.cycle s)

/-- 93_implementation_defined.md I10 with R120 (60_exceptions.md); the refusals are log entry 7: a
cycle has no next state exactly where it would use a PSC or a BITS that no rule gives a meaning;
there is no fault. -/
def Obligations.CyclesStopOnlyOutsideTheModel : Prop :=
  ∀ s : State,
    (s.currentInput.rst = false → s.currentInput.clkEn = true → s.build.prescaleN ≤ s.psc →
      step s = .refused .pscOutsideModel) ∧
    (s.pscOutsideModel = false → s.tickNow = true → (Reference.seen s).active = true →
      16 < (Reference.seen s).bits.toNat → step s = .refused .bitsOutsideModel) ∧
    (s.pscOutsideModel = false →
      (s.tickNow = true → (Reference.seen s).active = true → (Reference.seen s).bits.toNat ≤ 16) →
      ∃ t, step s = .next t) ∧
    ∀ f, step s ≠ .fault f

/-- R140 and R141 (70_reset_and_hazards.md): a cycle with `rst` = 1, from every state and with every
other input. -/
def Obligations.ResetCycleOverridesEveryInput : Prop :=
  ∀ s : State, s.currentInput.rst = true →
    ∃ t, step s = .next t ∧
      t.active = false ∧ t.base = 0 ∧ t.cursor = 0 ∧ t.repeatFlag = false ∧ t.code = 0 ∧
      t.bits = 0 ∧ t.faultLed = false ∧ t.hbLed = false ∧ t.cnt = 0 ∧ t.psc = 0 ∧
      t.build = s.build ∧ t.mem = applyWrites s.build s.currentInput.memWrites s.mem ∧
      t.wires.tick = false ∧ t.wires.faultWe = false ∧ t.wires.faultBit = false ∧
      t.wires.memAEn = false ∧ t.wires.memBEn = false

/-- R108 (41_tick_scheduler.md): a cycle without reset, tick, start request or load. -/
def Obligations.NopCycleOnlyCounts : Prop :=
  ∀ s : State, s.currentInput.rst = false → s.tickNow = false → s.currentInput.startValid = false →
    s.currentInput.cntLoadValid = false → s.pscOutsideModel = false →
    step s = .next { s with
      psc := if s.currentInput.clkEn then s.psc + 1 else s.psc
      mem := applyWrites s.build s.currentInput.memWrites s.mem
      inputs := s.inputs.tail
      cycle := s.cycle + 1
      wires := { tick := false, faultWe := false, faultBit := false, memAAddr := s.cursor,
                 memAEn := false, memBAddr := s.base, memBEn := false } }

/-- R13 and R50 (00_scope.md, 20_memory.md): a cycle with a start request replaces the whole session
in that cycle, and without a tick nothing of it is changed further. -/
def Obligations.StartRequestsAreAtomic : Prop :=
  ∀ s t : State, s.currentInput.rst = false → s.currentInput.startValid = true →
    s.tickNow = false → step s = .next t →
    t.active = (!s.currentInput.startNull) ∧
    t.base = fitAddr s.build s.currentInput.startAddr ∧
    t.cursor = fitAddr s.build s.currentInput.startAddr ∧
    t.repeatFlag = s.currentInput.startRepeat ∧ t.code = 0 ∧ t.bits = 0 ∧ t.faultLed = false ∧
    t.hbLed = s.hbLed ∧ t.wires.faultWe = false

/-! ### Invariants -/

/-- R140, R36 to R38, R107: the state after reset meets the invariant, and so does every state that
an allowed build and a message memory in canonical form give it. -/
def Obligations.ResetMeetsTheInvariant : Prop :=
  State.reset.Inv ∧
  ∀ (b : Build) (m : Memory) (ins : List CycleIn), b.Ok → Memory.wf (2 ^ b.addrW) m →
    { State.reset with build := b, mem := m, inputs := ins }.Inv

/-- Every cycle keeps the invariant and has a next state, from every state that meets it
(10_state.md R36 to R38; 41_tick_scheduler.md R107; 60_exceptions.md R120). -/
def Obligations.EveryCycleKeepsTheInvariant : Prop :=
  ∀ s : State, s.Inv → ∃ t, step s = .next t ∧ t.Inv

/-- R36, R37, R38 and R107, which the spec marks as derived: what holds in every state reachable
from reset, for every allowed build, every message memory, every input and any number of cycles; and
such a run never stops. -/
def Obligations.ReachableStatesStayInBounds : Prop :=
  ∀ (b : Build) (m : Memory) (ins : List CycleIn) (k : Nat), b.Ok → Memory.wf (2 ^ b.addrW) m →
    ∃ t, runCycles k { State.reset with build := b, mem := m, inputs := ins } = .next t ∧
      t.code.toNat < 2 ^ t.bits.toNat ∧ (t.bits = 0 → t.code = 0) ∧
      t.bits.toNat ≤ 16 ∧ (t.bits ≠ 0 → t.active = true) ∧
      t.psc ≤ b.prescaleN - 1 ∧
      (t.active = false → t.faultLed = false)

/-- R30 (10_state.md): a PSC below PRESCALE_N fits PSC_W bits, and PSC_W is the least such width of
at least 1. -/
def Obligations.PscFitsItsWidth : Prop :=
  ∀ n : Nat, 1 ≤ n →
    (∀ p, p < n → p < 2 ^ Config.pscWidth n) ∧ 1 ≤ Config.pscWidth n ∧
    ∀ w, 1 ≤ w → (∀ p, p < n → p < 2 ^ w) → Config.pscWidth n ≤ w

/-! ### The scheduler, cycle by cycle -/

/-- R100 (41_tick_scheduler.md): the prescaler. -/
def Obligations.PrescalerMakesTheTick : Prop :=
  ∀ s t : State, step s = .next t →
    (s.currentInput.rst = false → s.currentInput.clkEn = true →
      (s.psc = s.build.prescaleN - 1 → t.wires.tick = true ∧ t.psc = 0) ∧
      (s.psc ≠ s.build.prescaleN - 1 → t.wires.tick = false ∧ t.psc = s.psc + 1)) ∧
    (s.currentInput.rst = true ∨ s.currentInput.clkEn = false → t.wires.tick = false)

/-- R101 (41_tick_scheduler.md), which the spec marks as derived from R100: `clk_en` = 0 freezes the
time base, while start requests and loads still take effect; and PRESCALE_N = 1. -/
def Obligations.StoppedEnableFreezesTheTimeBase : Prop :=
  (∀ s : State, s.currentInput.rst = false → s.currentInput.clkEn = false →
    ∃ t, step s = .next t ∧ t.psc = s.psc ∧ t.wires.tick = false ∧ t.hbLed = s.hbLed ∧
      t.cnt = (if s.currentInput.cntLoadValid then fitCount s.build s.currentInput.cntLoadValue
        else s.cnt) ∧
      Reference.session t = Reference.seen s ∧
      (s.currentInput.startValid = false →
        Reference.session t = Reference.session s ∧ t.faultLed = s.faultLed)) ∧
  (∀ s t : State, s.build.prescaleN = 1 → s.psc = 0 → s.currentInput.rst = false →
    step s = .next t → t.psc = 0 ∧ t.wires.tick = s.currentInput.clkEn)

/-- R102 (41_tick_scheduler.md): the heartbeat duty. -/
def Obligations.HeartbeatTogglesWhileRunning : Prop :=
  ∀ s t : State, s.currentInput.rst = false → step s = .next t →
    (t.wires.tick = true → s.currentInput.running = true → t.hbLed = !s.hbLed) ∧
    (t.wires.tick = true → s.currentInput.running = false → t.hbLed = s.hbLed) ∧
    (t.wires.tick = false → t.hbLed = s.hbLed)

/-- R103 (41_tick_scheduler.md), with the load of R104: the countdown duty. -/
def Obligations.CountdownStopsAtZero : Prop :=
  ∀ s t : State, s.currentInput.rst = false → step s = .next t →
    (s.currentInput.cntLoadValid = false → t.wires.tick = true → s.cnt ≠ 0 →
      t.cnt = s.cnt - 1) ∧
    (s.currentInput.cntLoadValid = false → t.wires.tick = true → s.cnt = 0 → t.cnt = 0) ∧
    (s.currentInput.cntLoadValid = false → t.wires.tick = false → t.cnt = s.cnt) ∧
    (s.currentInput.cntLoadValid = true →
      t.cnt = fitCount s.build s.currentInput.cntLoadValue)

/-- R106 (41_tick_scheduler.md): the output mux. -/
def Obligations.MuxPrefersTheStepWrite : Prop :=
  ∀ s t : State, s.currentInput.rst = false → step s = .next t →
    (t.wires.faultWe = true → t.faultLed = t.wires.faultBit) ∧
    (t.wires.faultWe = false → s.currentInput.startValid = true → t.faultLed = false) ∧
    (t.wires.faultWe = false → s.currentInput.startValid = false → t.faultLed = s.faultLed)

/-- R111 (41_tick_scheduler.md), which the spec marks as derived from R100: after PSC = 0, the ticks
are the PRESCALE_N-th, the 2 PRESCALE_N-th, ... cycles with `clk_en` = 1, whatever else happens but
a reset. -/
def Obligations.TicksComeEveryPrescaleN : Prop :=
  ∀ (s : State) (ins : List CycleIn) (c : CycleIn) (more : List CycleIn), s.Inv → s.psc = 0 →
    s.inputs = ins ++ c :: more → (∀ d ∈ ins, d.rst = false) → c.rst = false →
    ∃ t, runCycles (ins.length + 1) s = .next t ∧
      t.psc = ((ins ++ [c]).filter (·.clkEn)).length % s.build.prescaleN ∧
      (t.wires.tick = true ↔
        c.clkEn = true ∧ ((ins ++ [c]).filter (·.clkEn)).length % s.build.prescaleN = 0)

/-- R112 (41_tick_scheduler.md), which the spec marks as derived from R102: with `running` held at
1, HB_LED toggles at every tick: it has its first value again after two. -/
def Obligations.HeartbeatIsASquareWave : Prop :=
  ∀ (k : Nat) (s : State), s.StepReady →
    ∃ t, runOps (List.replicate k (.tick true)) s = .next t ∧
      t.hbLed = (s.hbLed ^^ decide (k % 2 = 1))

/-- R103 (41_tick_scheduler.md) and R127 (60_exceptions.md): over any ticks the countdown falls by
one a tick and stays at 0. -/
def Obligations.CountdownCountsTicks : Prop :=
  ∀ (rs : List Bool) (s : State), s.StepReady →
    ∃ t, runOps (rs.map Instr.tick) s = .next t ∧ t.cnt = s.cnt - rs.length

/-! ### The encoder, over cycles and ticks -/

/-- R88 (40_morse_encoder.md), with R89 and the write count R90 that the spec derives from them:
which cycles make a step write, of which bit, and what becomes of CODE and BITS. -/
def Obligations.StepWritesExactlyWhereASessionEmits : Prop :=
  ∀ s t : State, step s = .next t →
    (t.wires.faultWe = true ↔
      s.tickNow = true ∧ (Reference.seen s).active = true ∧
        Reference.terminates s.memRead (Reference.seen s) = false) ∧
    (t.wires.faultWe = false → t.wires.faultBit = false) ∧
    (t.wires.faultWe = true →
      t.wires.faultBit = (Reference.current s.memRead (Reference.seen s)).code.getLsbD 0 ∧
      t.faultLed = (Reference.current s.memRead (Reference.seen s)).code.getLsbD 0 ∧
      t.code = (Reference.current s.memRead (Reference.seen s)).code >>> 1 ∧
      1 ≤ (Reference.current s.memRead (Reference.seen s)).bits.toNat ∧
      t.bits.toNat = (Reference.current s.memRead (Reference.seen s)).bits.toNat - 1)

/-- R91 (40_morse_encoder.md), which the spec marks as derived from R84, R88 and R89: a character
occupies as many ticks as its entry has bits, emits them from slot 0 on, and the tick after them is
the next load tick. -/
def Obligations.LettersLastTheirBitCount : Prop :=
  ∀ (s : State) (rs : List Bool), s.active = true → s.bits = 0 → s.memRead s.cursor ≠ 0 →
    1 ≤ rs.length → rs.length ≤ (lut (s.memRead s.cursor)).bits.toNat →
    ∃ t, runOps (rs.map Instr.tick) s = .next t ∧
      t.wires.faultWe = true ∧
      t.wires.faultBit = (lut (s.memRead s.cursor)).code.getLsbD (rs.length - 1) ∧
      t.faultLed = (lut (s.memRead s.cursor)).code.getLsbD (rs.length - 1) ∧
      t.bits.toNat = (lut (s.memRead s.cursor)).bits.toNat - rs.length ∧
      t.cursor = nextAddr s.build s.cursor ∧ t.active = true ∧ t.base = s.base ∧ t.mem = s.mem ∧
      (rs.length = (lut (s.memRead s.cursor)).bits.toNat →
        ∀ r, ∃ u, exec (.tick r) t = .next u ∧ u.wires.memAEn = true)

/-- R92 and R95 (40_morse_encoder.md), which the spec marks as derived, for REPEAT = 0: from any
session, a START of a message and any following cycles without reset, start request or write to the
message memory emit the message's slots, one per tick, then a terminating tick, then nothing; ACTIVE
falls at the terminating tick. -/
def Obligations.AMessageIsSentOnce : Prop :=
  ∀ (s : State) (c : CycleIn) (cs more : List CycleIn) (a : Nat) (msg : List Byte),
    s.psc < s.build.prescaleN → a < 2 ^ s.build.addrW →
    s.inputs = c :: cs ++ more → c.Starts a false → (∀ d ∈ cs, d.Undisturbed) →
    msg ≠ [] → s.messageAt a msg →
    ∃ t, runCycles (cs.length + 1) s = .next t ∧
      slotTrace (cs.length + 1) s =
        ((messageSlots msg).map some ++ List.replicate (cs.length + 1) none).take
          (slotTrace (cs.length + 1) s).length ∧
      (t.active = true ↔ (slotTrace (cs.length + 1) s).length ≤ (messageSlots msg).length)

/-- R92 and R95 (40_morse_encoder.md), which the spec marks as derived, for REPEAT = 1: the
message's slots, over and over, one per tick. -/
def Obligations.ARepeatingMessageIsPeriodic : Prop :=
  ∀ (s : State) (c : CycleIn) (cs more : List CycleIn) (a : Nat) (msg : List Byte),
    s.psc < s.build.prescaleN → a < 2 ^ s.build.addrW →
    s.inputs = c :: cs ++ more → c.Starts a true → (∀ d ∈ cs, d.Undisturbed) →
    msg ≠ [] → s.messageAt a msg →
    ∃ t, runCycles (cs.length + 1) s = .next t ∧
      slotTrace (cs.length + 1) s =
        ((List.replicate (cs.length + 1) (messageSlots msg)).flatten.map some).take
          (slotTrace (cs.length + 1) s).length ∧
      t.active = true

/-- R96 (40_morse_encoder.md), which the spec marks as derived: a START of an empty message makes no
step write, whatever REPEAT is, and ACTIVE is 0 from the first tick on. -/
def Obligations.AnEmptyMessageIsIdle : Prop :=
  ∀ (s : State) (c : CycleIn) (cs more : List CycleIn) (a : Nat) (r : Bool),
    s.psc < s.build.prescaleN → a < 2 ^ s.build.addrW →
    s.inputs = c :: cs ++ more → c.Starts a r → (∀ d ∈ cs, d.Undisturbed) → s.memRead a = 0 →
    ∃ t, runCycles (cs.length + 1) s = .next t ∧
      (∀ x ∈ slotTrace (cs.length + 1) s, x = none) ∧
      (slotTrace (cs.length + 1) s ≠ [] → t.active = false)

/-- R93 (40_morse_encoder.md), which the spec marks as derived: after a START, what the session
emits does not depend on any earlier session, on the indicators or on the countdown. -/
def Obligations.ASessionForgetsItsPast : Prop :=
  ∀ (s s' : State) (k : Nat), s'.build = s.build → s'.psc = s.psc → s'.mem = s.mem →
    s'.inputs = s.inputs → s'.cycle = s.cycle →
    s.currentInput.rst = false → s.currentInput.startValid = true →
    slotTrace k s' = slotTrace k s ∧
    ∀ t, runCycles (k + 1) s = .next t → ∃ t', runCycles (k + 1) s' = .next t' ∧
      Reference.session t' = Reference.session t ∧ t'.faultLed = t.faultLed ∧ t'.wires = t.wires

/-- R94 (40_morse_encoder.md), which the spec marks as derived from R83: while idle, any cycles
without reset or start request leave every encoder register and FAULT_LED unchanged and make no step
write. -/
def Obligations.IdleIsIdempotent : Prop :=
  ∀ (s : State) (cs more : List CycleIn), s.active = false → s.psc < s.build.prescaleN →
    s.inputs = cs ++ more → (∀ d ∈ cs, d.rst = false ∧ d.startValid = false) →
    ∃ t, runCycles cs.length s = .next t ∧
      Reference.session t = Reference.session s ∧ t.faultLed = s.faultLed ∧
      (∀ x ∈ slotTrace cs.length s, x = none) ∧
      (cs ≠ [] → t.wires.memAEn = false ∧ t.wires.memBEn = false)

/-- R109 (41_tick_scheduler.md), which the spec marks as derived: the Morse output does not depend
on `running`, HB_LED or CNT, and the heartbeat and the countdown do not depend on the session, the
start port or the message memory. -/
def Obligations.MorseAndTimersAreIndependent : Prop :=
  (∀ (s s' : State) (ds ds' more more' : List CycleIn), s'.build = s.build → s'.psc = s.psc →
    s'.mem = s.mem → Reference.session s' = Reference.session s → s'.faultLed = s.faultLed →
    s.inputs = ds ++ more → s'.inputs = ds' ++ more' → List.Forall₂ CycleIn.SameForMorse ds ds' →
    slotTrace ds.length s' = slotTrace ds.length s ∧
    ∀ t, runCycles ds.length s = .next t → ∃ t', runCycles ds.length s' = .next t' ∧
      Reference.session t' = Reference.session t ∧ t'.faultLed = t.faultLed) ∧
  (∀ (s s' : State) (ds ds' more more' : List CycleIn), s.Inv → s'.Inv → s'.build = s.build →
    s'.psc = s.psc → s'.hbLed = s.hbLed → s'.cnt = s.cnt →
    s.inputs = ds ++ more → s'.inputs = ds' ++ more' → List.Forall₂ CycleIn.SameForTimers ds ds' →
    ∃ t t', runCycles ds.length s = .next t ∧ runCycles ds.length s' = .next t' ∧
      t'.hbLed = t.hbLed ∧ t'.cnt = t.cnt ∧ t'.psc = t.psc)

/-! ### The message memory -/

/-- R41 (20_memory.md): the read ports, in every cycle, reset and idle cycles too (where 10_state.md R22
and 70_reset_and_hazards.md R141 read otherwise: log entries 17 and 18). -/
def Obligations.ReadPortsFollowTheSessionSeen : Prop :=
  ∀ s t : State, step s = .next t →
    t.wires.memAAddr = (if s.currentInput.startValid then fitAddr s.build s.currentInput.startAddr
      else s.cursor) ∧
    t.wires.memBAddr = (if s.currentInput.startValid then fitAddr s.build s.currentInput.startAddr
      else s.base) ∧
    t.wires.memAAddr = (Reference.seen s).cursor ∧ t.wires.memBAddr = (Reference.seen s).base ∧
    (t.wires.memAEn = true ↔
      s.tickNow = true ∧ (Reference.seen s).active = true ∧ (Reference.seen s).bits = 0) ∧
    (t.wires.memBEn = true ↔
      s.tickNow = true ∧ (Reference.seen s).active = true ∧ (Reference.seen s).bits = 0 ∧
        s.memRead t.wires.memAAddr = 0 ∧ (Reference.seen s).repeatFlag = true)

/-- R42 and R49 (20_memory.md): a cycle does not see the writes that other agents make in it, and the
next one does; the block itself changes no byte. That of several writes to one address in one cycle the
last of the list stands is the model's choice (log entry 13). -/
def Obligations.OutsideWritesAreSeenFromTheNextCycle : Prop :=
  (∀ (s t : State) (c : CycleIn) (cs : List CycleIn) (ws : List (Nat × Byte)),
    s.inputs = c :: cs → step s = .next t →
    step { s with inputs := { c with memWrites := ws } :: cs } =
      .next { t with mem := applyWrites s.build ws s.mem }) ∧
  (∀ (s t : State) (a : Nat), a < 2 ^ s.build.addrW → step s = .next t →
    (∀ v ws ws', s.currentInput.memWrites = ws ++ (a, v) :: ws' →
      (∀ w ∈ ws', fitAddr s.build w.1 ≠ a) → t.memRead a = v) ∧
    ((∀ w ∈ s.currentInput.memWrites, fitAddr s.build w.1 ≠ a) → t.memRead a = s.memRead a))

/-- R46 (20_memory.md): address arithmetic wraps at 2^ADDR_W, in a load tick and in a restart. -/
def Obligations.AddressesWrap : Prop :=
  (∀ (b : Build) (a : Nat), nextAddr b a = (a + 1) % 2 ^ b.addrW) ∧
  (∀ s : State, s.active = true → s.bits = 0 →
    s.cursor = 2 ^ s.build.addrW - 1 → s.memRead s.cursor ≠ 0 →
    ∃ t, exec .step s = .next t ∧ t.cursor = 0) ∧
  (∀ s : State, s.active = true → s.bits = 0 → s.repeatFlag = true →
    s.memRead s.cursor = 0 → s.base = 2 ^ s.build.addrW - 1 → s.memRead s.base ≠ 0 →
    ∃ t, exec .step s = .next t ∧ t.cursor = 0)

/-! ### The alphabet -/

/-- R67 (30_encoding.md): every byte is in exactly one class, and the non-letters map to the default
entry. -/
def Obligations.BytesFallIntoThreeClasses : Prop :=
  ∀ c : Byte,
    (c.toNat = 0 → classify c = .terminator) ∧
    (0x41 ≤ c.toNat → c.toNat ≤ 0x5A →
      ∃ i : Fin 26, i.val = c.toNat - 0x41 ∧ classify c = .letter i) ∧
    (0x01 ≤ c.toNat → c.toNat ≤ 0x40 → classify c = .nonLetter ∧ lut c = defaultEntry) ∧
    (0x5B ≤ c.toNat → classify c = .nonLetter ∧ lut c = defaultEntry)

/-- R69 and R70 (30_encoding.md): LUT(c) of every byte but the terminator. -/
def Obligations.LutMapsEveryByte : Prop :=
  ∀ c : Byte, c ≠ 0 →
    (∀ i : Fin 26, c.toNat = 0x41 + i.val → lut c = alphabet[i]) ∧
    (c.toNat < 0x41 ∨ 0x5A < c.toNat → lut c = ⟨0x0000, 4⟩)

/-- R71 (30_encoding.md): every letter's entry is built from its Morse sequence, with the three
properties the rule derives. -/
def Obligations.LettersAreBuiltFromTheirMorse : Prop :=
  (∀ i : Fin 26, alphabet[i] = buildEntry morse[i] ∧
    (alphabet[i]).code.toNat < 2 ^ (alphabet[i]).bits.toNat ∧
    (alphabet[i]).code.getLsbD 0 = true ∧
    (alphabet[i]).code.getLsbD ((alphabet[i]).bits.toNat - 1) = false ∧
    (alphabet[i]).code.getLsbD ((alphabet[i]).bits.toNat - 2) = false ∧
    (alphabet[i]).code.getLsbD ((alphabet[i]).bits.toNat - 3) = false) ∧
  (∀ (i : Fin 26) (k : Nat), k < (letterSlots morse[i]).length →
    (letterSlots morse[i])[k]? = some ((alphabet[i]).code.getLsbD k)) ∧
  (∀ i : Fin 26, (letterSlots morse[i]).length = (alphabet[i]).bits.toNat) ∧
  defaultEntry.code.toNat < 2 ^ defaultEntry.bits.toNat

/-- R72 (30_encoding.md), which the spec marks as derived: after a letter, n non-letters make a gap
of exactly 3 + 4n off slots (3 after a letter alone, 7 over a space); non-letters at the start of a
message are 4 off slots each. -/
def Obligations.GapsHaveTheirLengths : Prop :=
  (∀ (i : Fin 26) (c : Byte) (ds : List Byte), classify c = .letter i →
    (∀ d ∈ ds, classify d = .nonLetter) →
    ∃ on : List Bool, messageSlots (c :: ds) =
      on ++ [true] ++ List.replicate (3 + 4 * ds.length) false) ∧
  (∀ ds : List Byte, (∀ d ∈ ds, classify d = .nonLetter) →
    messageSlots ds = List.replicate (4 * ds.length) false) ∧
  (∀ (i : Fin 26) (c : Byte), classify c = .letter i → (messageSlots [c]).head? = some true)
end

