-- ==== Sys2Proof/Laws/Alphabet.lean ====
section
/-! SUPPORT. What every LUT entry keeps to (30_encoding.md R68 to R71). -/

namespace Sys2Proof.Machine

/-- What a LUT entry that STEP can load keeps to: 4 to 16 slots, and the last one off. -/
abbrev LutEntry.Sound (e : LutEntry) : Prop :=
  4 ≤ e.bits.toNat ∧ e.bits.toNat ≤ 16 ∧ e.code.toNat < 2 ^ (e.bits.toNat - 1)

theorem alphabet_sound : ∀ i : Fin 26, (alphabet[i]).Sound := by decide

theorem defaultEntry_sound : defaultEntry.Sound := by decide

theorem lut_sound (c : Byte) : (lut c).Sound := by
  unfold lut
  cases classify c with
  | letter i => exact alphabet_sound i
  | nonLetter => exact defaultEntry_sound
  | terminator => exact defaultEntry_sound

end Sys2Proof.Machine
end

