-- ==== Sys2Proof/Laws/Memory.lean ====
section
/-! SUPPORT. The laws of the message memory: a read after a write, and that every operation keeps the
canonical form. -/

namespace Sys2Proof.Machine

namespace Memory

@[simp] theorem read_nil (a : Nat) : read [] a = unlisted := rfl

theorem read_cons (k : Nat) (v : Byte) (m : Memory) (a : Nat) :
    read ((k, v) :: m) a = if k = a then v else read m a := rfl

theorem read_without_same (m : Memory) (a : Nat) : read (without m a) a = unlisted := by
  induction m with
  | nil => rfl
  | cons x m ih =>
    obtain ⟨k, v⟩ := x
    by_cases h : k = a
    · simpa [without, h] using ih
    · simpa [without, h, read_cons] using ih

theorem read_without_other (m : Memory) {a b : Nat} (hb : b ≠ a) :
    read (without m a) b = read m b := by
  induction m with
  | nil => rfl
  | cons x m ih =>
    obtain ⟨k, v⟩ := x
    by_cases h : k = a
    · subst h
      simpa [without, read_cons, Ne.symm hb] using ih
    · by_cases hk : k = b
      · simp [without, read_cons, hk, hb]
      · simpa [without, h, read_cons, hk] using ih

theorem read_put_same (m : Memory) (a : Nat) (v : Byte) (hm : ∀ c ∈ m, c.1 ≠ a) :
    read (put m a v) a = v := by
  induction m with
  | nil => simp [put, read_cons]
  | cons x m ih =>
    obtain ⟨k, w⟩ := x
    have hk : k ≠ a := hm (k, w) (by simp)
    by_cases h : a < k
    · simp [put, h, read_cons]
    · simp only [put, h, if_false, read_cons, hk]
      exact ih fun c hc => hm c (by simp [hc])

theorem read_put_other (m : Memory) {a b : Nat} (v : Byte) (hb : b ≠ a) :
    read (put m a v) b = read m b := by
  induction m with
  | nil => simp [put, read_cons, Ne.symm hb]
  | cons x m ih =>
    obtain ⟨k, w⟩ := x
    by_cases h : a < k
    · simp [put, h, read_cons, Ne.symm hb]
    · simp only [put, if_neg h, read_cons, ih]

theorem without_keys_ne (m : Memory) (a : Nat) : ∀ c ∈ without m a, c.1 ≠ a := by
  intro c hc
  simpa using (List.mem_filter.mp hc).2

/-- A read after a write to the same address. -/
theorem read_write_same (m : Memory) (a : Nat) (v : Byte) : read (write m a v) a = v := by
  unfold write
  split
  · next h => rw [h, read_without_same]
  · exact read_put_same _ _ _ (without_keys_ne m a)

/-- A write leaves every other address alone. -/
theorem read_write_other (m : Memory) {a b : Nat} (v : Byte) (hb : b ≠ a) :
    read (write m a v) b = read m b := by
  unfold write
  split
  · exact read_without_other m hb
  · rw [read_put_other _ _ hb, read_without_other _ hb]

theorem mem_put {m : Memory} {a : Nat} {v : Byte} {c : Host.Cell} (h : c ∈ put m a v) :
    c = (a, v) ∨ c ∈ m := by
  induction m with
  | nil => simpa [put] using h
  | cons x m ih =>
    obtain ⟨k, w⟩ := x
    by_cases hk : a < k
    · simpa [put, hk] using h
    · rcases List.mem_cons.mp (by simpa [put, hk] using h) with h | h
      · exact .inr (by simp [h])
      · exact (ih h).imp_right fun h => by simp [h]

theorem put_rising {m : Memory} {a : Nat} (v : Byte) (hm : m.Pairwise (fun x y => x.1 < y.1))
    (hne : ∀ c ∈ m, c.1 ≠ a) : (put m a v).Pairwise (fun x y => x.1 < y.1) := by
  induction m with
  | nil => simp [put]
  | cons x m ih =>
    obtain ⟨k, w⟩ := x
    obtain ⟨hk, hm'⟩ := List.pairwise_cons.mp hm
    by_cases h : a < k
    · simp only [put, h, if_true]
      refine List.pairwise_cons.mpr ⟨fun c hc => ?_, hm⟩
      rcases List.mem_cons.mp hc with rfl | hc
      · exact h
      · exact Nat.lt_trans h (hk c hc)
    · simp only [put, h, if_false]
      refine List.pairwise_cons.mpr ⟨fun c hc => ?_, ih hm' fun c hc => hne c (by simp [hc])⟩
      rcases mem_put hc with rfl | hc
      · have : k ≠ a := hne (k, w) (by simp)
        exact Nat.lt_of_le_of_ne (Nat.le_of_not_lt h) this
      · exact hk c hc

theorem wf_nil (size : Nat) : wf size [] := ⟨List.Pairwise.nil, fun _ h => by cases h⟩

theorem without_wf {size : Nat} {m : Memory} (a : Nat) (hm : wf size m) : wf size (without m a) :=
  ⟨hm.1.filter _, fun c hc => hm.2 c (List.mem_filter.mp hc).1⟩

/-- A write keeps the canonical form. -/
theorem write_wf {size : Nat} {m : Memory} {a : Nat} (v : Byte) (ha : a < size) (hm : wf size m) :
    wf size (write m a v) := by
  unfold write
  split
  · exact without_wf a hm
  · next hv =>
    have h := without_wf a hm
    refine ⟨put_rising v h.1 (without_keys_ne m a), fun c hc => ?_⟩
    rcases mem_put hc with rfl | hc
    · exact ⟨ha, hv⟩
    · exact h.2 c hc

end Memory

theorem fitAddr_lt (b : Build) (a : Nat) : fitAddr b a < 2 ^ b.addrW :=
  Nat.mod_lt _ (Nat.two_pow_pos _)

theorem nextAddr_lt (b : Build) (a : Nat) : nextAddr b a < 2 ^ b.addrW :=
  Nat.mod_lt _ (Nat.two_pow_pos _)

theorem fitCount_lt (b : Build) (v : Nat) : fitCount b v < 2 ^ b.cntW :=
  Nat.mod_lt _ (Nat.two_pow_pos _)

theorem fitAddr_of_lt {b : Build} {a : Nat} (ha : a < 2 ^ b.addrW) : fitAddr b a = a :=
  Nat.mod_eq_of_lt ha

theorem fitCount_of_lt {b : Build} {v : Nat} (hv : v < 2 ^ b.cntW) : fitCount b v = v :=
  Nat.mod_eq_of_lt hv

/-- The next address is one higher, but for the top address, which 0 follows (20_memory.md R46). -/
theorem nextAddr_of_lt {b : Build} {a : Nat} (ha : a + 1 < 2 ^ b.addrW) : nextAddr b a = a + 1 :=
  Nat.mod_eq_of_lt ha

theorem nextAddr_top {b : Build} {a : Nat} (ha : a + 1 = 2 ^ b.addrW) : nextAddr b a = 0 := by
  simp [nextAddr, ha]

@[simp] theorem applyWrites_nil (b : Build) (m : Memory) : applyWrites b [] m = m := rfl

/-- Other agents' writes keep the canonical form. -/
theorem applyWrites_wf {b : Build} (ws : List (Nat × Byte)) {m : Memory}
    (hm : Memory.wf (2 ^ b.addrW) m) : Memory.wf (2 ^ b.addrW) (applyWrites b ws m) := by
  induction ws generalizing m with
  | nil => exact hm
  | cons w ws ih => exact ih (Memory.write_wf w.2 (fitAddr_lt b w.1) hm)

end Sys2Proof.Machine
end

