-- ==== Sys2Proof/Laws/State.lean ====
section
/-! SUPPORT. One lemma per field per update of the state, so that no proof unfolds a record update. -/

namespace Sys2Proof.Machine.State

variable (s : State)

/-! ### replaceSession -/

@[simp] theorem replaceSession_active (n : Bool) (a : Nat) (r : Bool) :
    (s.replaceSession n a r).active =
      !n := rfl
@[simp] theorem replaceSession_base (n : Bool) (a : Nat) (r : Bool) :
    (s.replaceSession n a r).base =
      a := rfl
@[simp] theorem replaceSession_cursor (n : Bool) (a : Nat) (r : Bool) :
    (s.replaceSession n a r).cursor =
      a := rfl
@[simp] theorem replaceSession_repeatFlag (n : Bool) (a : Nat) (r : Bool) :
    (s.replaceSession n a r).repeatFlag =
      r := rfl
@[simp] theorem replaceSession_code (n : Bool) (a : Nat) (r : Bool) :
    (s.replaceSession n a r).code =
      0 := rfl
@[simp] theorem replaceSession_bits (n : Bool) (a : Nat) (r : Bool) :
    (s.replaceSession n a r).bits =
      0 := rfl
@[simp] theorem replaceSession_faultLed (n : Bool) (a : Nat) (r : Bool) :
    (s.replaceSession n a r).faultLed =
      false := rfl
@[simp] theorem replaceSession_hbLed (n : Bool) (a : Nat) (r : Bool) :
    (s.replaceSession n a r).hbLed =
      s.hbLed := rfl
@[simp] theorem replaceSession_cnt (n : Bool) (a : Nat) (r : Bool) :
    (s.replaceSession n a r).cnt =
      s.cnt := rfl
@[simp] theorem replaceSession_psc (n : Bool) (a : Nat) (r : Bool) :
    (s.replaceSession n a r).psc =
      s.psc := rfl
@[simp] theorem replaceSession_build (n : Bool) (a : Nat) (r : Bool) :
    (s.replaceSession n a r).build =
      s.build := rfl
@[simp] theorem replaceSession_mem (n : Bool) (a : Nat) (r : Bool) :
    (s.replaceSession n a r).mem =
      s.mem := rfl
@[simp] theorem replaceSession_inputs (n : Bool) (a : Nat) (r : Bool) :
    (s.replaceSession n a r).inputs =
      s.inputs := rfl
@[simp] theorem replaceSession_cycle (n : Bool) (a : Nat) (r : Bool) :
    (s.replaceSession n a r).cycle =
      s.cycle := rfl
@[simp] theorem replaceSession_wires (n : Bool) (a : Nat) (r : Bool) :
    (s.replaceSession n a r).wires =
      s.wires := rfl

/-! ### quietStep -/

@[simp] theorem quietStep_active : (s.quietStep).active = s.active := rfl
@[simp] theorem quietStep_base : (s.quietStep).base = s.base := rfl
@[simp] theorem quietStep_cursor : (s.quietStep).cursor = s.cursor := rfl
@[simp] theorem quietStep_repeatFlag : (s.quietStep).repeatFlag = s.repeatFlag := rfl
@[simp] theorem quietStep_code : (s.quietStep).code = s.code := rfl
@[simp] theorem quietStep_bits : (s.quietStep).bits = s.bits := rfl
@[simp] theorem quietStep_faultLed : (s.quietStep).faultLed = s.faultLed := rfl
@[simp] theorem quietStep_hbLed : (s.quietStep).hbLed = s.hbLed := rfl
@[simp] theorem quietStep_cnt : (s.quietStep).cnt = s.cnt := rfl
@[simp] theorem quietStep_psc : (s.quietStep).psc = s.psc := rfl
@[simp] theorem quietStep_build : (s.quietStep).build = s.build := rfl
@[simp] theorem quietStep_mem : (s.quietStep).mem = s.mem := rfl
@[simp] theorem quietStep_inputs : (s.quietStep).inputs = s.inputs := rfl
@[simp] theorem quietStep_cycle : (s.quietStep).cycle = s.cycle := rfl
@[simp] theorem quietStep_wires :
    (s.quietStep).wires =
      { s.wires with faultWe := false, faultBit := false, memAEn := false, memBEn := false } := rfl

/-! ### usePortA -/

@[simp] theorem usePortA_active : (s.usePortA).active = s.active := rfl
@[simp] theorem usePortA_base : (s.usePortA).base = s.base := rfl
@[simp] theorem usePortA_cursor : (s.usePortA).cursor = s.cursor := rfl
@[simp] theorem usePortA_repeatFlag : (s.usePortA).repeatFlag = s.repeatFlag := rfl
@[simp] theorem usePortA_code : (s.usePortA).code = s.code := rfl
@[simp] theorem usePortA_bits : (s.usePortA).bits = s.bits := rfl
@[simp] theorem usePortA_faultLed : (s.usePortA).faultLed = s.faultLed := rfl
@[simp] theorem usePortA_hbLed : (s.usePortA).hbLed = s.hbLed := rfl
@[simp] theorem usePortA_cnt : (s.usePortA).cnt = s.cnt := rfl
@[simp] theorem usePortA_psc : (s.usePortA).psc = s.psc := rfl
@[simp] theorem usePortA_build : (s.usePortA).build = s.build := rfl
@[simp] theorem usePortA_mem : (s.usePortA).mem = s.mem := rfl
@[simp] theorem usePortA_inputs : (s.usePortA).inputs = s.inputs := rfl
@[simp] theorem usePortA_cycle : (s.usePortA).cycle = s.cycle := rfl
@[simp] theorem usePortA_wires : (s.usePortA).wires = { s.wires with memAEn := true } := rfl

/-! ### usePortB -/

@[simp] theorem usePortB_active : (s.usePortB).active = s.active := rfl
@[simp] theorem usePortB_base : (s.usePortB).base = s.base := rfl
@[simp] theorem usePortB_cursor : (s.usePortB).cursor = s.cursor := rfl
@[simp] theorem usePortB_repeatFlag : (s.usePortB).repeatFlag = s.repeatFlag := rfl
@[simp] theorem usePortB_code : (s.usePortB).code = s.code := rfl
@[simp] theorem usePortB_bits : (s.usePortB).bits = s.bits := rfl
@[simp] theorem usePortB_faultLed : (s.usePortB).faultLed = s.faultLed := rfl
@[simp] theorem usePortB_hbLed : (s.usePortB).hbLed = s.hbLed := rfl
@[simp] theorem usePortB_cnt : (s.usePortB).cnt = s.cnt := rfl
@[simp] theorem usePortB_psc : (s.usePortB).psc = s.psc := rfl
@[simp] theorem usePortB_build : (s.usePortB).build = s.build := rfl
@[simp] theorem usePortB_mem : (s.usePortB).mem = s.mem := rfl
@[simp] theorem usePortB_inputs : (s.usePortB).inputs = s.inputs := rfl
@[simp] theorem usePortB_cycle : (s.usePortB).cycle = s.cycle := rfl
@[simp] theorem usePortB_wires : (s.usePortB).wires = { s.wires with memBEn := true } := rfl

/-! ### emitSlot -/

@[simp] theorem emitSlot_active (p : Code) (b : SlotCount) :
    (s.emitSlot p b).active =
      s.active := rfl
@[simp] theorem emitSlot_base (p : Code) (b : SlotCount) : (s.emitSlot p b).base = s.base := rfl
@[simp] theorem emitSlot_cursor (p : Code) (b : SlotCount) :
    (s.emitSlot p b).cursor =
      s.cursor := rfl
@[simp] theorem emitSlot_repeatFlag (p : Code) (b : SlotCount) :
    (s.emitSlot p b).repeatFlag =
      s.repeatFlag := rfl
@[simp] theorem emitSlot_code (p : Code) (b : SlotCount) : (s.emitSlot p b).code = p >>> 1 := rfl
@[simp] theorem emitSlot_bits (p : Code) (b : SlotCount) : (s.emitSlot p b).bits = b - 1 := rfl
@[simp] theorem emitSlot_faultLed (p : Code) (b : SlotCount) :
    (s.emitSlot p b).faultLed =
      p.getLsbD 0 := rfl
@[simp] theorem emitSlot_hbLed (p : Code) (b : SlotCount) : (s.emitSlot p b).hbLed = s.hbLed := rfl
@[simp] theorem emitSlot_cnt (p : Code) (b : SlotCount) : (s.emitSlot p b).cnt = s.cnt := rfl
@[simp] theorem emitSlot_psc (p : Code) (b : SlotCount) : (s.emitSlot p b).psc = s.psc := rfl
@[simp] theorem emitSlot_build (p : Code) (b : SlotCount) : (s.emitSlot p b).build = s.build := rfl
@[simp] theorem emitSlot_mem (p : Code) (b : SlotCount) : (s.emitSlot p b).mem = s.mem := rfl
@[simp] theorem emitSlot_inputs (p : Code) (b : SlotCount) :
    (s.emitSlot p b).inputs =
      s.inputs := rfl
@[simp] theorem emitSlot_cycle (p : Code) (b : SlotCount) : (s.emitSlot p b).cycle = s.cycle := rfl
@[simp] theorem emitSlot_wires (p : Code) (b : SlotCount) :
    (s.emitSlot p b).wires =
      { s.wires with faultWe := true, faultBit := p.getLsbD 0 } := rfl

/-! ### consume -/

@[simp] theorem consume_active (c : Byte) (a : Nat) : (s.consume c a).active = s.active := rfl
@[simp] theorem consume_base (c : Byte) (a : Nat) : (s.consume c a).base = s.base := rfl
@[simp] theorem consume_cursor (c : Byte) (a : Nat) : (s.consume c a).cursor = a := rfl
@[simp] theorem consume_repeatFlag (c : Byte) (a : Nat) :
    (s.consume c a).repeatFlag =
      s.repeatFlag := rfl
@[simp] theorem consume_code (c : Byte) (a : Nat) :
    (s.consume c a).code =
      (lut c).code >>> 1 := rfl
@[simp] theorem consume_bits (c : Byte) (a : Nat) : (s.consume c a).bits = (lut c).bits - 1 := rfl
@[simp] theorem consume_faultLed (c : Byte) (a : Nat) :
    (s.consume c a).faultLed =
      (lut c).code.getLsbD 0 := rfl
@[simp] theorem consume_hbLed (c : Byte) (a : Nat) : (s.consume c a).hbLed = s.hbLed := rfl
@[simp] theorem consume_cnt (c : Byte) (a : Nat) : (s.consume c a).cnt = s.cnt := rfl
@[simp] theorem consume_psc (c : Byte) (a : Nat) : (s.consume c a).psc = s.psc := rfl
@[simp] theorem consume_build (c : Byte) (a : Nat) : (s.consume c a).build = s.build := rfl
@[simp] theorem consume_mem (c : Byte) (a : Nat) : (s.consume c a).mem = s.mem := rfl
@[simp] theorem consume_inputs (c : Byte) (a : Nat) : (s.consume c a).inputs = s.inputs := rfl
@[simp] theorem consume_cycle (c : Byte) (a : Nat) : (s.consume c a).cycle = s.cycle := rfl
@[simp] theorem consume_wires (c : Byte) (a : Nat) :
    (s.consume c a).wires =
      { s.wires with faultWe := true, faultBit := (lut c).code.getLsbD 0 } := rfl

/-! ### endSession -/

@[simp] theorem endSession_active : (s.endSession).active = false := rfl
@[simp] theorem endSession_base : (s.endSession).base = s.base := rfl
@[simp] theorem endSession_cursor : (s.endSession).cursor = s.cursor := rfl
@[simp] theorem endSession_repeatFlag : (s.endSession).repeatFlag = s.repeatFlag := rfl
@[simp] theorem endSession_code : (s.endSession).code = s.code := rfl
@[simp] theorem endSession_bits : (s.endSession).bits = s.bits := rfl
@[simp] theorem endSession_faultLed : (s.endSession).faultLed = s.faultLed := rfl
@[simp] theorem endSession_hbLed : (s.endSession).hbLed = s.hbLed := rfl
@[simp] theorem endSession_cnt : (s.endSession).cnt = s.cnt := rfl
@[simp] theorem endSession_psc : (s.endSession).psc = s.psc := rfl
@[simp] theorem endSession_build : (s.endSession).build = s.build := rfl
@[simp] theorem endSession_mem : (s.endSession).mem = s.mem := rfl
@[simp] theorem endSession_inputs : (s.endSession).inputs = s.inputs := rfl
@[simp] theorem endSession_cycle : (s.endSession).cycle = s.cycle := rfl
@[simp] theorem endSession_wires : (s.endSession).wires = s.wires := rfl

/-! ### heartbeat -/

@[simp] theorem heartbeat_active (r : Bool) : (s.heartbeat r).active = s.active := rfl
@[simp] theorem heartbeat_base (r : Bool) : (s.heartbeat r).base = s.base := rfl
@[simp] theorem heartbeat_cursor (r : Bool) : (s.heartbeat r).cursor = s.cursor := rfl
@[simp] theorem heartbeat_repeatFlag (r : Bool) : (s.heartbeat r).repeatFlag = s.repeatFlag := rfl
@[simp] theorem heartbeat_code (r : Bool) : (s.heartbeat r).code = s.code := rfl
@[simp] theorem heartbeat_bits (r : Bool) : (s.heartbeat r).bits = s.bits := rfl
@[simp] theorem heartbeat_faultLed (r : Bool) : (s.heartbeat r).faultLed = s.faultLed := rfl
@[simp] theorem heartbeat_hbLed (r : Bool) : (s.heartbeat r).hbLed = heartbeatNext r s.hbLed := rfl
@[simp] theorem heartbeat_cnt (r : Bool) : (s.heartbeat r).cnt = s.cnt := rfl
@[simp] theorem heartbeat_psc (r : Bool) : (s.heartbeat r).psc = s.psc := rfl
@[simp] theorem heartbeat_build (r : Bool) : (s.heartbeat r).build = s.build := rfl
@[simp] theorem heartbeat_mem (r : Bool) : (s.heartbeat r).mem = s.mem := rfl
@[simp] theorem heartbeat_inputs (r : Bool) : (s.heartbeat r).inputs = s.inputs := rfl
@[simp] theorem heartbeat_cycle (r : Bool) : (s.heartbeat r).cycle = s.cycle := rfl
@[simp] theorem heartbeat_wires (r : Bool) : (s.heartbeat r).wires = s.wires := rfl

/-! ### countdown -/

@[simp] theorem countdown_active : (s.countdown).active = s.active := rfl
@[simp] theorem countdown_base : (s.countdown).base = s.base := rfl
@[simp] theorem countdown_cursor : (s.countdown).cursor = s.cursor := rfl
@[simp] theorem countdown_repeatFlag : (s.countdown).repeatFlag = s.repeatFlag := rfl
@[simp] theorem countdown_code : (s.countdown).code = s.code := rfl
@[simp] theorem countdown_bits : (s.countdown).bits = s.bits := rfl
@[simp] theorem countdown_faultLed : (s.countdown).faultLed = s.faultLed := rfl
@[simp] theorem countdown_hbLed : (s.countdown).hbLed = s.hbLed := rfl
@[simp] theorem countdown_cnt : (s.countdown).cnt = countdownNext s.cnt := rfl
@[simp] theorem countdown_psc : (s.countdown).psc = s.psc := rfl
@[simp] theorem countdown_build : (s.countdown).build = s.build := rfl
@[simp] theorem countdown_mem : (s.countdown).mem = s.mem := rfl
@[simp] theorem countdown_inputs : (s.countdown).inputs = s.inputs := rfl
@[simp] theorem countdown_cycle : (s.countdown).cycle = s.cycle := rfl
@[simp] theorem countdown_wires : (s.countdown).wires = s.wires := rfl

/-! ### setCnt -/

@[simp] theorem setCnt_active (v : Nat) : (s.setCnt v).active = s.active := rfl
@[simp] theorem setCnt_base (v : Nat) : (s.setCnt v).base = s.base := rfl
@[simp] theorem setCnt_cursor (v : Nat) : (s.setCnt v).cursor = s.cursor := rfl
@[simp] theorem setCnt_repeatFlag (v : Nat) : (s.setCnt v).repeatFlag = s.repeatFlag := rfl
@[simp] theorem setCnt_code (v : Nat) : (s.setCnt v).code = s.code := rfl
@[simp] theorem setCnt_bits (v : Nat) : (s.setCnt v).bits = s.bits := rfl
@[simp] theorem setCnt_faultLed (v : Nat) : (s.setCnt v).faultLed = s.faultLed := rfl
@[simp] theorem setCnt_hbLed (v : Nat) : (s.setCnt v).hbLed = s.hbLed := rfl
@[simp] theorem setCnt_cnt (v : Nat) : (s.setCnt v).cnt = v := rfl
@[simp] theorem setCnt_psc (v : Nat) : (s.setCnt v).psc = s.psc := rfl
@[simp] theorem setCnt_build (v : Nat) : (s.setCnt v).build = s.build := rfl
@[simp] theorem setCnt_mem (v : Nat) : (s.setCnt v).mem = s.mem := rfl
@[simp] theorem setCnt_inputs (v : Nat) : (s.setCnt v).inputs = s.inputs := rfl
@[simp] theorem setCnt_cycle (v : Nat) : (s.setCnt v).cycle = s.cycle := rfl
@[simp] theorem setCnt_wires (v : Nat) : (s.setCnt v).wires = s.wires := rfl

/-! ### quiet -/

@[simp] theorem quiet_active : (s.quiet).active = s.active := rfl
@[simp] theorem quiet_base : (s.quiet).base = s.base := rfl
@[simp] theorem quiet_cursor : (s.quiet).cursor = s.cursor := rfl
@[simp] theorem quiet_repeatFlag : (s.quiet).repeatFlag = s.repeatFlag := rfl
@[simp] theorem quiet_code : (s.quiet).code = s.code := rfl
@[simp] theorem quiet_bits : (s.quiet).bits = s.bits := rfl
@[simp] theorem quiet_faultLed : (s.quiet).faultLed = s.faultLed := rfl
@[simp] theorem quiet_hbLed : (s.quiet).hbLed = s.hbLed := rfl
@[simp] theorem quiet_cnt : (s.quiet).cnt = s.cnt := rfl
@[simp] theorem quiet_psc : (s.quiet).psc = s.psc := rfl
@[simp] theorem quiet_build : (s.quiet).build = s.build := rfl
@[simp] theorem quiet_mem : (s.quiet).mem = s.mem := rfl
@[simp] theorem quiet_inputs : (s.quiet).inputs = s.inputs := rfl
@[simp] theorem quiet_cycle : (s.quiet).cycle = s.cycle := rfl
@[simp] theorem quiet_wires :
    (s.quiet).wires =
      { s.wires with tick := false, faultWe := false, faultBit := false, memAEn := false, memBEn := false } := rfl

/-! ### clearRegisters -/

@[simp] theorem clearRegisters_active : (s.clearRegisters).active = false := rfl
@[simp] theorem clearRegisters_base : (s.clearRegisters).base = 0 := rfl
@[simp] theorem clearRegisters_cursor : (s.clearRegisters).cursor = 0 := rfl
@[simp] theorem clearRegisters_repeatFlag : (s.clearRegisters).repeatFlag = false := rfl
@[simp] theorem clearRegisters_code : (s.clearRegisters).code = 0 := rfl
@[simp] theorem clearRegisters_bits : (s.clearRegisters).bits = 0 := rfl
@[simp] theorem clearRegisters_faultLed : (s.clearRegisters).faultLed = false := rfl
@[simp] theorem clearRegisters_hbLed : (s.clearRegisters).hbLed = false := rfl
@[simp] theorem clearRegisters_cnt : (s.clearRegisters).cnt = 0 := rfl
@[simp] theorem clearRegisters_psc : (s.clearRegisters).psc = 0 := rfl
@[simp] theorem clearRegisters_build : (s.clearRegisters).build = s.build := rfl
@[simp] theorem clearRegisters_mem : (s.clearRegisters).mem = s.mem := rfl
@[simp] theorem clearRegisters_inputs : (s.clearRegisters).inputs = s.inputs := rfl
@[simp] theorem clearRegisters_cycle : (s.clearRegisters).cycle = s.cycle := rfl
@[simp] theorem clearRegisters_wires : (s.clearRegisters).wires = s.wires := rfl

/-! ### openCycle -/

@[simp] theorem openCycle_active : (s.openCycle).active = s.active := rfl
@[simp] theorem openCycle_base : (s.openCycle).base = s.base := rfl
@[simp] theorem openCycle_cursor : (s.openCycle).cursor = s.cursor := rfl
@[simp] theorem openCycle_repeatFlag : (s.openCycle).repeatFlag = s.repeatFlag := rfl
@[simp] theorem openCycle_code : (s.openCycle).code = s.code := rfl
@[simp] theorem openCycle_bits : (s.openCycle).bits = s.bits := rfl
@[simp] theorem openCycle_faultLed : (s.openCycle).faultLed = s.faultLed := rfl
@[simp] theorem openCycle_hbLed : (s.openCycle).hbLed = s.hbLed := rfl
@[simp] theorem openCycle_cnt : (s.openCycle).cnt = s.cnt := rfl
@[simp] theorem openCycle_psc :
    (s.openCycle).psc =
      prescalerNext s.build.prescaleN s.psc s.currentInput.rst s.currentInput.clkEn := rfl
@[simp] theorem openCycle_build : (s.openCycle).build = s.build := rfl
@[simp] theorem openCycle_mem : (s.openCycle).mem = s.mem := rfl
@[simp] theorem openCycle_inputs : (s.openCycle).inputs = s.inputs.tail := rfl
@[simp] theorem openCycle_cycle : (s.openCycle).cycle = s.cycle + 1 := rfl
@[simp] theorem openCycle_wires :
    (s.openCycle).wires =
      { Wires.zero with tick := s.tickNow, memAAddr := s.portAAddr, memBAddr := s.portBAddr } := rfl

/-! ### closeCycle -/

@[simp] theorem closeCycle_active (ws : List (Nat × Byte)) :
    (s.closeCycle ws).active =
      s.active := rfl
@[simp] theorem closeCycle_base (ws : List (Nat × Byte)) : (s.closeCycle ws).base = s.base := rfl
@[simp] theorem closeCycle_cursor (ws : List (Nat × Byte)) :
    (s.closeCycle ws).cursor =
      s.cursor := rfl
@[simp] theorem closeCycle_repeatFlag (ws : List (Nat × Byte)) :
    (s.closeCycle ws).repeatFlag =
      s.repeatFlag := rfl
@[simp] theorem closeCycle_code (ws : List (Nat × Byte)) : (s.closeCycle ws).code = s.code := rfl
@[simp] theorem closeCycle_bits (ws : List (Nat × Byte)) : (s.closeCycle ws).bits = s.bits := rfl
@[simp] theorem closeCycle_faultLed (ws : List (Nat × Byte)) :
    (s.closeCycle ws).faultLed =
      s.faultLed := rfl
@[simp] theorem closeCycle_hbLed (ws : List (Nat × Byte)) :
    (s.closeCycle ws).hbLed =
      s.hbLed := rfl
@[simp] theorem closeCycle_cnt (ws : List (Nat × Byte)) : (s.closeCycle ws).cnt = s.cnt := rfl
@[simp] theorem closeCycle_psc (ws : List (Nat × Byte)) : (s.closeCycle ws).psc = s.psc := rfl
@[simp] theorem closeCycle_build (ws : List (Nat × Byte)) :
    (s.closeCycle ws).build =
      s.build := rfl
@[simp] theorem closeCycle_mem (ws : List (Nat × Byte)) :
    (s.closeCycle ws).mem =
      applyWrites s.build ws s.mem := rfl
@[simp] theorem closeCycle_inputs (ws : List (Nat × Byte)) :
    (s.closeCycle ws).inputs =
      s.inputs := rfl
@[simp] theorem closeCycle_cycle (ws : List (Nat × Byte)) :
    (s.closeCycle ws).cycle =
      s.cycle := rfl
@[simp] theorem closeCycle_wires (ws : List (Nat × Byte)) :
    (s.closeCycle ws).wires =
      s.wires := rfl

end Sys2Proof.Machine.State
end

