-- ==== Sys2Proof/Laws/Cycle.lean ====
section
/-! SUPPORT. What a cycle selects, and how its operations follow one another. -/

namespace Sys2Proof.Machine

@[simp] theorem runOps_nil (s : State) : runOps [] s = .next s := rfl

theorem runOps_cons_next {i : Instr} {is : List Instr} {s t : State} (h : exec i s = .next t) :
    runOps (i :: is) s = runOps is t := by simp [runOps, h]

theorem runOps_append (is js : List Instr) (s t : State) (h : runOps is s = .next t) :
    runOps (is ++ js) s = runOps js t := by
  induction is generalizing s with
  | nil =>
    cases h
    rfl
  | cons i is ih =>
    simp only [runOps] at h
    cases hi : exec i s with
    | next u =>
      simp only [hi] at h
      simpa [runOps, hi] using ih u h
    | fault f => simp [hi] at h
    | refused r => simp [hi] at h

@[simp] theorem closing_next (ws : List (Nat × Byte)) (t : State) :
    State.closing ws (.next t) = .next (t.closeCycle ws) := rfl

@[simp] theorem closing_refused (ws : List (Nat × Byte)) (r : Refusal) :
    State.closing ws (.refused r) = .refused r := rfl

theorem closing_eq_next {ws : List (Nat × Byte)} {o : Host.Outcome State Fault Refusal} {t : State} :
    State.closing ws o = .next t ↔ ∃ u, o = .next u ∧ t = u.closeCycle ws := by
  cases o <;> simp [State.closing, eq_comm]

/-- What each row's mask and pattern select, as a condition on the bits of an event vector. -/
theorem selects_eventVector : ∀ rst tick sv sn sr lv : Bool,
    resetRow.selects (State.eventVector rst tick sv sn sr lv) = rst ∧
    nopRow.selects (State.eventVector rst tick sv sn sr lv) = (!rst && !tick && !sv && !lv) ∧
    startRow.selects (State.eventVector rst tick sv sn sr lv) = (!rst && sv && !sn) ∧
    cancelRow.selects (State.eventVector rst tick sv sn sr lv) = (!rst && sv && sn) ∧
    tickRow.selects (State.eventVector rst tick sv sn sr lv) = (!rst && tick) ∧
    loadCntRow.selects (State.eventVector rst tick sv sn sr lv) = (!rst && lv) ∧
    evStartRepeat (State.eventVector rst tick sv sn sr lv) = sr := by
  decide

/-- The operations of the current cycle, from its inputs (30_encoding.md R61 to R66). -/
theorem decodeEvent_eventWord (s : State) :
    decodeEvent s.eventWord =
      if s.currentInput.rst then [.reset]
      else if !s.tickNow && !s.currentInput.startValid && !s.currentInput.cntLoadValid then [.nop]
      else
        (if s.currentInput.startValid then
          [if s.currentInput.startNull then
            .cancel (fitAddr s.build s.currentInput.startAddr) s.currentInput.startRepeat
          else .start (fitAddr s.build s.currentInput.startAddr) s.currentInput.startRepeat]
        else []) ++
        (if s.tickNow then [.tick s.currentInput.running] else []) ++
        (if s.currentInput.cntLoadValid then
          [.loadCnt (fitCount s.build s.currentInput.cntLoadValue)]
        else []) := by
  obtain ⟨h1, h2, h3, h4, h5, h6, h7⟩ := selects_eventVector s.currentInput.rst s.tickNow
    s.currentInput.startValid s.currentInput.startNull s.currentInput.startRepeat
    s.currentInput.cntLoadValid
  simp only [decodeEvent, decodeSession, decodeTick, decodeLoad, State.eventWord, h1, h2, h3, h4, h5,
    h6, h7]
  cases s.currentInput.rst <;> cases s.currentInput.startValid <;>
    cases s.currentInput.startNull <;> simp

/-- A reset cycle has no tick (30_encoding.md R60). -/
theorem tickNow_of_rst {s : State} (h : s.currentInput.rst = true) : s.tickNow = false := by
  simp [State.tickNow, prescalerTick, h]

end Sys2Proof.Machine
end

