-- ==== Sys2Proof/Laws/Word.lean ====
section
/-! SUPPORT. The ranges of the word types, as numerals. -/

namespace Sys2Proof

theorem code_toNat_lt (c : Code) : c.toNat < 65536 := c.isLt

theorem slotCount_toNat_lt (n : SlotCount) : n.toNat < 32 := n.isLt

theorem event_toNat_lt (ev : EventVector) : ev.toNat < 64 := ev.isLt

end Sys2Proof
end

