-- ==== Sys2Proof/Laws/Decode.lean ====
section
/-! SUPPORT. Bytes and numbers, and an event word read back from its bytes. -/

namespace Sys2Proof

@[simp] theorem length_toBytes (k n : Nat) : (toBytes k n).length = k := by
  induction k generalizing n with
  | zero => rfl
  | succ k ih => simp [toBytes, ih]

theorem ofBytes_toBytes (k n : Nat) : ofBytes (toBytes k n) = n % 256 ^ k := by
  induction k generalizing n with
  | zero => simp [toBytes, ofBytes, Nat.mod_one]
  | succ k ih =>
    have h : n % 256 ^ (k + 1) = n % 256 + 256 * (n / 256 % 256 ^ k) := by
      rw [Nat.pow_succ, Nat.mul_comm (256 ^ k) 256, Nat.mod_mul]
    simp only [toBytes, ofBytes, ih, h]
    rfl

theorem toBytes_ofBytes (bs : List Byte) : toBytes bs.length (ofBytes bs) = bs := by
  induction bs with
  | nil => rfl
  | cons b bs ih =>
    have hb := b.isLt
    have h1 : (b.toNat + 256 * ofBytes bs) / 256 = ofBytes bs := by omega
    have h2 : BitVec.ofNat 8 (b.toNat + 256 * ofBytes bs) = b := by
      apply BitVec.eq_of_toNat_eq
      simp only [BitVec.toNat_ofNat]
      omega
    simp only [List.length_cons, toBytes, ofBytes, h1, h2, ih]

/-- Bytes enough for `w` bits hold every `w`-bit number. -/
theorem ofBytes_toBytes_of_lt {w n : Nat} (h : n < 2 ^ w) : ofBytes (toBytes ((w + 7) / 8) n) = n := by
  have hle : 2 ^ w ≤ 256 ^ ((w + 7) / 8) := by
    rw [show 256 = 2 ^ 8 from rfl, ← Nat.pow_mul]
    exact Nat.pow_le_pow_right (by omega) (by omega)
  rw [ofBytes_toBytes, Nat.mod_eq_of_lt (Nat.lt_of_lt_of_le h hle)]

/-- A part of a list that follows a known number of bytes. -/
theorem field_append {i k : Nat} (pre mid post : List Byte) (hi : pre.length = i)
    (hk : mid.length = k) : field i k (pre ++ mid ++ post) = ofBytes mid := by
  simp [field, ← hi, ← hk]

/-- The operands of an event word fit the ports of a build (00_scope.md R6, R8). -/
def EventWord.Fits (b : Build) (w : EventWord) : Prop :=
  w.startAddr < 2 ^ b.addrW ∧ w.cntLoadValue < 2 ^ b.cntW

@[simp] theorem length_encodeWord (b : Build) (w : EventWord) :
    (encodeWord b w).length = wordBytes b := by
  simp [encodeWord, wordBytes]
  omega

/-- The four fields of an encoded event word. -/
theorem fields_encodeWord {b : Build} {w : EventWord} (hw : w.Fits b) (rest : List Byte) :
    eventField (encodeWord b w ++ rest) = w.ev.toNat ∧
    addrField b (encodeWord b w ++ rest) = w.startAddr ∧
    countField b (encodeWord b w ++ rest) = w.cntLoadValue ∧
    runningField b (encodeWord b w ++ rest) = w.running.toNat := by
  have he := event_toNat_lt w.ev
  have hr := Bool.toNat_le w.running
  have h1 : ofBytes (toBytes 1 w.ev.toNat) = w.ev.toNat := ofBytes_toBytes_of_lt (w := 8) (by omega)
  have h4 : ofBytes (toBytes 1 w.running.toNat) = w.running.toNat :=
    ofBytes_toBytes_of_lt (w := 8) (by omega)
  have h2 : ofBytes (toBytes (addrBytes b) w.startAddr) = w.startAddr := ofBytes_toBytes_of_lt hw.1
  have h3 : ofBytes (toBytes (countBytes b) w.cntLoadValue) = w.cntLoadValue :=
    ofBytes_toBytes_of_lt hw.2
  refine ⟨?_, ?_, ?_, ?_⟩
  · refine Eq.trans ?_ h1
    simpa [encodeWord, eventField] using field_append [] (toBytes 1 w.ev.toNat) _ rfl (length_toBytes _ _)
  · refine Eq.trans ?_ h2
    simpa [encodeWord, addrField] using
      field_append (toBytes 1 w.ev.toNat) (toBytes (addrBytes b) w.startAddr) _ (by simp) (by simp)
  · refine Eq.trans ?_ h3
    simpa [encodeWord, countField] using
      field_append (toBytes 1 w.ev.toNat ++ toBytes (addrBytes b) w.startAddr)
        (toBytes (countBytes b) w.cntLoadValue) _ (by simp) (by simp)
  · refine Eq.trans ?_ h4
    simpa [encodeWord, runningField] using
      field_append (toBytes 1 w.ev.toNat ++ toBytes (addrBytes b) w.startAddr ++
        toBytes (countBytes b) w.cntLoadValue) (toBytes 1 w.running.toNat) rest (by simp; omega) (by simp)

/-- An event word is read back from its bytes, whatever follows them. -/
theorem readEventWord_encodeWord {b : Build} {w : EventWord} (hw : w.Fits b) (rest : List Byte) :
    readEventWord b (encodeWord b w ++ rest) = .ok (w, rest) := by
  obtain ⟨h1, h2, h3, h4⟩ := fields_encodeWord hw rest
  have he := event_toNat_lt w.ev
  have hr := Bool.toNat_le w.running
  have hdrop : (encodeWord b w ++ rest).drop (wordBytes b) = rest := by
    rw [← length_encodeWord b w, List.drop_left]
  have hword : eventWordOfBytes b (encodeWord b w ++ rest) = w := by
    have hev : BitVec.ofNat 6 w.ev.toNat = w.ev := by simp
    have hrun : (w.running.toNat % 2 == 1) = w.running := by cases w.running <;> rfl
    simp only [eventWordOfBytes, h1, h2, h3, h4, hev, hrun, Nat.mod_eq_of_lt hw.1,
      Nat.mod_eq_of_lt hw.2]
  unfold readEventWord
  rw [if_neg (by simp), if_neg (by omega), if_neg (by rw [h2]; exact Nat.not_le.2 hw.1),
    if_neg (by rw [h3]; exact Nat.not_le.2 hw.2), if_neg (by omega), hword, hdrop]

/-- A field of a list that is long enough is its own bytes. -/
theorem toBytes_field {i k : Nat} {bs : List Byte} (h : i + k ≤ bs.length) :
    toBytes k (field i k bs) = (bs.drop i).take k := by
  have hlen : ((bs.drop i).take k).length = k := by
    simp only [List.length_take, List.length_drop]
    omega
  have ht := toBytes_ofBytes ((bs.drop i).take k)
  rwa [hlen] at ht

/-- A list is cut into two fields where one field begins. -/
theorem take_field {i j k : Nat} (bs : List Byte) (h : j = i + k) :
    bs.take i ++ (bs.drop i).take k = bs.take j := by
  rw [h, List.take_add]

/-- What is read as an event word is the encoding of that word, which fits its ports. -/
theorem readEventWord_eq_ok {b : Build} {bs rest : List Byte} {w : EventWord}
    (h : readEventWord b bs = .ok (w, rest)) : w.Fits b ∧ bs = encodeWord b w ++ rest := by
  unfold readEventWord at h
  split at h
  · cases h
  next hlen =>
  split at h
  · cases h
  next hev =>
  split at h
  · cases h
  next haddr =>
  split at h
  · cases h
  next hcnt =>
  split at h
  · cases h
  next hrun =>
  cases h
  have hw : wordBytes b = 1 + addrBytes b + countBytes b + 1 := rfl
  have e1 : (BitVec.ofNat 6 (eventField bs)).toNat = eventField bs := by
    simp only [BitVec.toNat_ofNat]
    omega
  have e2 : addrField b bs % 2 ^ b.addrW = addrField b bs := Nat.mod_eq_of_lt (Nat.not_le.1 haddr)
  have e3 : countField b bs % 2 ^ b.cntW = countField b bs := Nat.mod_eq_of_lt (Nat.not_le.1 hcnt)
  have e4 : (runningField b bs % 2 == 1).toNat = runningField b bs := by
    have : runningField b bs = 0 ∨ runningField b bs = 1 := by omega
    rcases this with h | h <;> simp [h]
  refine ⟨⟨Nat.mod_lt _ (Nat.two_pow_pos _), Nat.mod_lt _ (Nat.two_pow_pos _)⟩, ?_⟩
  have henc : encodeWord b (eventWordOfBytes b bs) = bs.take (wordBytes b) := by
    simp only [encodeWord, eventWordOfBytes, e1, e2, e3, e4]
    rw [eventField, toBytes_field (by omega), addrField, toBytes_field (by omega), countField,
      toBytes_field (by omega), runningField, toBytes_field (by omega), List.drop_zero,
      take_field bs rfl, take_field bs rfl, take_field bs rfl]
    rfl
  rw [henc, List.take_append_drop]

theorem decodeBytes_encodeWord {b : Build} {w : EventWord} (hw : w.Fits b) (rest : List Byte) :
    decodeBytes b (encodeWord b w ++ rest) = .ok (decodeEvent w, rest) := by
  simp [decodeBytes, readEventWord_encodeWord hw]

end Sys2Proof
end

