-- ==== Sys2Proof/Laws/Encoder.lean ====
section
/-! SUPPORT. What STEP can do, said once. -/

namespace Sys2Proof.Machine.State

/-- STEP has a next state exactly where BITS has a meaning. -/
theorem encoderStep_eq_next {s t : State} :
    s.encoderStep = .next t ↔ s.bitsOutsideModel = false ∧ t = s.encoderNext := by
  unfold encoderStep
  cases s.bitsOutsideModel <;> simp [eq_comm]

theorem bitsOutsideModel_eq_false {s : State} :
    s.bitsOutsideModel = false ↔ (s.active = true → s.bits.toNat ≤ 16) := by
  unfold bitsOutsideModel
  cases s.active <;> simp

/-- STEP is one of six things (40_morse_encoder.md R83 to R89). -/
theorem encoderNext_cases (s : State) :
    (s.active = false ∧ s.encoderNext = s.quietStep) ∨
    (s.active = true ∧ s.bits ≠ 0 ∧ s.encoderNext = s.quietStep.emitSlot s.code s.bits) ∨
    (s.active = true ∧ s.bits = 0 ∧ s.memRead s.cursor ≠ 0 ∧
      s.encoderNext =
        s.quietStep.usePortA.consume (s.memRead s.cursor) (nextAddr s.build s.cursor)) ∨
    (s.active = true ∧ s.bits = 0 ∧ s.memRead s.cursor = 0 ∧ s.repeatFlag = false ∧
      s.encoderNext = s.quietStep.usePortA.endSession) ∨
    (s.active = true ∧ s.bits = 0 ∧ s.memRead s.cursor = 0 ∧ s.repeatFlag = true ∧
      s.memRead s.base ≠ 0 ∧
      s.encoderNext =
        s.quietStep.usePortA.usePortB.consume (s.memRead s.base) (nextAddr s.build s.base)) ∨
    (s.active = true ∧ s.bits = 0 ∧ s.memRead s.cursor = 0 ∧ s.repeatFlag = true ∧
      s.memRead s.base = 0 ∧ s.encoderNext = s.quietStep.usePortA.usePortB.endSession) := by
  have hc : s.quietStep.memRead s.quietStep.cursor = s.memRead s.cursor := rfl
  have hb : s.quietStep.memRead s.quietStep.base = s.memRead s.base := rfl
  by_cases ha : s.active = true <;> by_cases h0 : s.bits = 0 <;>
    by_cases h1 : s.memRead s.cursor = 0 <;> by_cases h2 : s.repeatFlag = true <;>
    by_cases h3 : s.memRead s.base = 0 <;>
    simp_all [encoderNext, loadTick]

/-- STEP changes only the session, FAULT_LED and its strobes. -/
theorem encoderNext_frame (s : State) :
    s.encoderNext.base = s.base ∧ s.encoderNext.repeatFlag = s.repeatFlag ∧
    s.encoderNext.hbLed = s.hbLed ∧ s.encoderNext.cnt = s.cnt ∧ s.encoderNext.psc = s.psc ∧
    s.encoderNext.build = s.build ∧ s.encoderNext.mem = s.mem ∧
    s.encoderNext.inputs = s.inputs ∧ s.encoderNext.cycle = s.cycle ∧
    s.encoderNext.wires.tick = s.wires.tick ∧
    s.encoderNext.wires.memAAddr = s.wires.memAAddr ∧
    s.encoderNext.wires.memBAddr = s.wires.memBAddr := by
  rcases encoderNext_cases s with ⟨_, h⟩ | ⟨_, _, h⟩ | ⟨_, _, _, h⟩ | ⟨_, _, _, _, h⟩ |
    ⟨_, _, _, _, _, h⟩ | ⟨_, _, _, _, _, h⟩ <;> simp [h]

end Sys2Proof.Machine.State
end

