-- ==== Sys2Proof/Laws/PerInstr.lean ====
section
/-! SUPPORT. What is said of every operation as syntax: its row of the opcode table selects its encoding. -/

namespace Sys2Proof.Laws

/-- The operation's row of spec/opcode_table.json (30_encoding.md R61 to R65). -/
def rowOf : Instr → OpcodeRow
  | .start _ _ => startRow
  | .cancel _ _ => cancelRow
  | .loadCnt _ => loadCntRow
  | .tick _ => tickRow
  | .step => tickRow
  | .reset => resetRow
  | .nop => nopRow

namespace Selected

/-- (EV & mask) == match (30_encoding.md R60), for the event vector the encoder gives the operation. -/
def Statement (i : Instr) : Prop := (rowOf i).selects (encodeEvent [i]).ev = true

theorem start (addr : Nat) (rep : Bool) : Statement (.start addr rep) := by
  have h : ∀ r, startRow.selects (0 ||| startRow.pattern ||| repeatBit r) = true := by decide
  exact h rep

theorem cancel (addr : Nat) (rep : Bool) : Statement (.cancel addr rep) := by
  have h : ∀ r, cancelRow.selects (0 ||| cancelRow.pattern ||| repeatBit r) = true := by decide
  exact h rep

theorem loadCnt (value : Nat) : Statement (.loadCnt value) := by
  have h : loadCntRow.selects (0 ||| loadCntRow.pattern) = true := by decide
  exact h

theorem tick (running : Bool) : Statement (.tick running) := by
  have h : tickRow.selects (0 ||| tickRow.pattern) = true := by decide
  exact h

theorem step : Statement .step := by
  have h : tickRow.selects (0 ||| tickRow.pattern) = true := by decide
  exact h

theorem reset : Statement .reset := by
  have h : resetRow.selects (0 ||| resetRow.pattern) = true := by decide
  exact h

theorem nop : Statement .nop := by
  have h : nopRow.selects (0 ||| nopRow.pattern) = true := by decide
  exact h

end Selected

end Sys2Proof.Laws
end

