-- ==== Sys2Proof/Tests/Slice0.lean ====
section
/-! SUPPORT. The model's own tests, their expected values from the spec's encodings and from
95_test_vectors.md, and for every statement with hypotheses a state that meets them. -/

namespace Sys2Proof.Tests

open Sys2Proof Sys2Proof.Machine

/-! ### Helpers -/

/-- The build of the test vectors: ADDR_W = 16, CNT_W = 32. -/
def buildN (n : Nat) : Build := { addrW := 16, cntW := 32, prescaleN := n }

/-- The message memory of 95_test_vectors.md L2.2. -/
def vectorMem : Memory := [(0x10, 0x45), (0x30, 0x41), (0x40, 0x61), (0xFFFF, 0x54)]

/-- Every register 0, and one cycle's inputs. -/
def blank (n : Nat) (c : CycleIn) : State :=
  { State.reset with build := buildN n, mem := vectorMem, inputs := [c] }

/-- `en`: the prescaler is enabled. -/
def en : CycleIn := { clkEn := true }

/-- `start a, once` or `start a, repeat`, with a tick where `en` holds. -/
def startIn (a : Nat) (rep clkEn : Bool) : CycleIn :=
  { clkEn := clkEn, startValid := true, startAddr := a, startRepeat := rep }

/-- The next state of an outcome. -/
def nextOf : Host.Outcome State Fault Refusal → Option State
  | .next t => some t
  | .fault _ => none
  | .refused _ => none

/-- The reason of a refusal. -/
def refusalOf : Host.Outcome State Fault Refusal → Option Refusal
  | .next _ => none
  | .fault _ => none
  | .refused r => some r

/-- The state after a step, or the state itself. -/
def after (s : State) : State := (nextOf (step s)).getD s

theorem step_after {s : State} (h : (nextOf (step s)).isSome = true) : step s = .next (after s) := by
  unfold after
  cases hs : step s with
  | next t => rfl
  | fault f => simp [hs, nextOf] at h
  | refused r => simp [hs, nextOf] at h

/-- What a row of the vectors lists: the registers, then tick, fault_we, fault_bit, a_en, b_en. -/
structure Row where
  active : Bool := false
  base : Nat := 0
  cursor : Nat := 0
  repeatFlag : Bool := false
  code : Code := 0
  bits : SlotCount := 0
  faultLed : Bool := false
  hbLed : Bool := false
  cnt : Nat := 0
  psc : Nat := 0
  outs : List Bool
  deriving DecidableEq, Repr

/-- The row a step leaves. -/
def rowAfter (s : State) : Option Row :=
  (nextOf (step s)).map fun t =>
    { active := t.active, base := t.base, cursor := t.cursor, repeatFlag := t.repeatFlag,
      code := t.code, bits := t.bits, faultLed := t.faultLed, hbLed := t.hbLed, cnt := t.cnt,
      psc := t.psc,
      outs := [t.wires.tick, t.wires.faultWe, t.wires.faultBit, t.wires.memAEn, t.wires.memBEn] }

/-! ### Well-formed operations: each check refuses an ill-formed term -/

theorem test_wf_step_alone : cycleWellFormed [.step] = false := by decide
theorem test_wf_nothing : cycleWellFormed [] = false := by decide
theorem test_wf_two_sessions : cycleWellFormed [.start 1 true, .cancel 0 false] = false := by decide
theorem test_wf_tick_before_start : cycleWellFormed [.tick true, .start 1 true] = false := by decide
theorem test_wf_load_before_tick : cycleWellFormed [.loadCnt 1, .tick true] = false := by decide
theorem test_wf_two_ticks : cycleWellFormed [.tick true, .tick true] = false := by decide
theorem test_wf_reset_with_tick : cycleWellFormed [.reset, .tick true] = false := by decide
theorem test_wf_nop_with_load : cycleWellFormed [.nop, .loadCnt 1] = false := by decide
theorem test_wf_step_is_not_an_operation_of_its_own : Instr.wellFormed .step = false := by decide
theorem test_wf_all_three : cycleWellFormed [.cancel 1 true, .tick false, .loadCnt 9] = true := by decide
theorem test_fits_start : (Instr.start 0x10000 true).fits (buildN 1) = false := by decide
theorem test_fits_cancel : (Instr.cancel 0x10000 true).fits (buildN 1) = false := by decide
theorem test_fits_load : (Instr.loadCnt 8).fits { buildN 1 with cntW := 3 } = false := by decide

/-! ### Words written out from 30_encoding.md R60 to R65 -/

theorem test_decode_start : decodeTableWord 8 0b00001000 = some (.start 0 false) := by decide
theorem test_decode_start_repeat :
    decodeBytes Build.hardware [0b00001010, 0x34, 0x12, 0, 0, 0, 0, 0, 0, 0] = .ok ([.start 0x1234 true], []) := by
  rfl
theorem test_decode_cancel :
    decodeBytes Build.hardware [0b00001100, 0x55, 0, 0, 0, 0, 0, 0, 0, 0] = .ok ([.cancel 0x55 false], []) := by rfl
theorem test_decode_load :
    decodeBytes Build.hardware [0b00000001, 0, 0, 0, 0, 0x07, 0, 0, 0x80, 0, 0xFF] =
      .ok ([.loadCnt 0x80000007], [0xFF]) := by rfl
theorem test_decode_tick :
    decodeBytes Build.hardware [0b00010000, 0, 0, 0, 0, 0, 0, 0, 0, 1] = .ok ([.tick true], []) := by rfl
theorem test_decode_step_row : decodeTableWord 8 0b00010000 = some (.tick false) := by decide
theorem test_decode_reset : decodeTableWord 8 0b00111111 = some .reset := by decide
theorem test_decode_nop : decodeTableWord 8 0b00000110 = some .nop := by decide
theorem test_decode_three :
    decodeEvent ⟨0b011111, 0x100, 3, true⟩ = [.cancel 0x100 true, .tick true, .loadCnt 3] := by decide
theorem test_decode_truncated : decodeBytes Build.hardware [0, 0, 0, 0, 0, 0, 0, 0, 0] = .error .truncated := by rfl
theorem test_decode_padding_event :
    decodeBytes Build.hardware [0b01000000, 0, 0, 0, 0, 0, 0, 0, 0, 0] = .error .paddingBesideEvent := by rfl
theorem test_decode_padding_running :
    decodeBytes Build.hardware [0, 0, 0, 0, 0, 0, 0, 0, 0, 2] = .error .paddingBesideRunning := by rfl
/-- A build of ADDR_W = 12 and CNT_W = 3: two address bytes and one count byte. -/
def narrow : Build := { addrW := 12, cntW := 3, prescaleN := 1 }
theorem test_decode_padding_address :
    decodeBytes narrow [0b00001000, 0xFF, 0x1F, 0, 0] = .error .paddingBesideAddress := by rfl
theorem test_decode_padding_count :
    decodeBytes narrow [0b00000001, 0, 0, 8, 0] = .error .paddingBesideCount := by rfl
theorem test_decode_narrow :
    decodeBytes narrow [0b00011001, 0xFF, 0x0F, 7, 1] =
      .ok ([.start 0xFFF false, .tick true, .loadCnt 7], []) := by rfl
/-- A build wider than the hardware's: 48-bit addresses. -/
theorem test_encode_wide : encode { Build.hardware with addrW := 48 } (.start 0x1234567890AB false) =
    [0b00001000, 0xAB, 0x90, 0x78, 0x56, 0x34, 0x12, 0, 0, 0, 0, 0] := by decide
theorem test_encode_cancel :
    encode Build.hardware (.cancel 0x1234 true) = [0b00001110, 0x34, 0x12, 0, 0, 0, 0, 0, 0, 0] := by decide

/-! ### One step of each operation, from 95_test_vectors.md -/

/-- The state before V10, V11 and V12. -/
def v10 (c : CycleIn) : State :=
  { blank 1 c with active := true, base := 0x10, cursor := 0x11, code := 5, bits := 3, faultLed := true }

theorem test_start_V10 : rowAfter (v10 (startIn 0x30 false true)) =
    some { active := true, base := 0x30, cursor := 0x31, code := 0x000E, bits := 7, faultLed := true,
           outs := [true, true, true, true, false] } := by decide
theorem test_start_V11 : rowAfter (v10 (startIn 0x30 true false)) =
    some { active := true, base := 0x30, cursor := 0x30, repeatFlag := true,
           outs := [false, false, false, false, false] } := by decide
theorem test_cancel_V12 : rowAfter (v10 { startIn 0x55 true true with startNull := true }) =
    some { base := 0x55, cursor := 0x55, repeatFlag := true,
           outs := [true, false, false, false, false] } := by decide
theorem test_step_V5 :
    rowAfter { blank 1 en with active := true, base := 0x10, cursor := 0x11, repeatFlag := true } =
    some { active := true, base := 0x10, cursor := 0x11, repeatFlag := true, bits := 3, faultLed := true,
           outs := [true, true, true, true, true] } := by decide
theorem test_step_V8 :
    rowAfter { blank 1 en with active := true, base := 0xFFFF, cursor := 0xFFFF } =
    some { active := true, base := 0xFFFF, cursor := 0, code := 3, bits := 5, faultLed := true,
           outs := [true, true, true, true, false] } := by decide
theorem test_tick_T5 :
    rowAfter { blank 1 { en with running := true } with hbLed := true, cnt := 0xFFFFFFFF } =
    some { cnt := 0xFFFFFFFE, outs := [true, false, false, false, false] } := by decide
theorem test_tick_T9 : rowAfter { blank 3 en with psc := 2 } =
    some { outs := [true, false, false, false, false] } := by decide
theorem test_load_T6 :
    rowAfter { blank 1 { en with cntLoadValid := true, cntLoadValue := 3 } with cnt := 5 } =
    some { cnt := 3, outs := [true, false, false, false, false] } := by decide
theorem test_load_T8 :
    rowAfter { blank 3 { en with cntLoadValid := true, cntLoadValue := 7 } with cnt := 5 } =
    some { cnt := 7, psc := 1, outs := [false, false, false, false, false] } := by decide

/-- The state before T11. -/
def t11 : State :=
  { blank 3 { rst := true, clkEn := true, running := true, startValid := true, startAddr := 0x30,
              startRepeat := true, cntLoadValid := true, cntLoadValue := 4 } with
    active := true, base := 0x10, cursor := 0x10, code := 5, bits := 3, faultLed := true, hbLed := true,
    cnt := 9, psc := 2 }

theorem test_reset_T11 :
    t11.eventWord.ev = 0b101011 ∧
    rowAfter t11 = some { outs := [false, false, false, false, false] } := by decide
theorem test_nop_T10 : rowAfter { blank 3 {} with psc := 1 } =
    some { psc := 1, outs := [false, false, false, false, false] } := by decide
theorem test_nop_T12 :
    rowAfter { blank 1 {} with active := true, base := 0x10, cursor := 0x10, code := 5, bits := 3,
                               faultLed := true, hbLed := true, cnt := 9 } =
    some { active := true, base := 0x10, cursor := 0x10, code := 5, bits := 3, faultLed := true,
           hbLed := true, cnt := 9, outs := [false, false, false, false, false] } := by decide

/-- 20_memory.md R46: addresses wrap at 2^ADDR_W, here in a build of ADDR_W = 40. -/
theorem test_wrap_wide :
    nextAddr { buildN 1 with addrW := 40 } (2 ^ 40 - 1) = 0 ∧
    nextAddr { buildN 1 with addrW := 40 } (2 ^ 32 - 1) = 2 ^ 32 := by decide

/-- 95_test_vectors.md L2.2, V10 and V5: the read addresses. -/
theorem test_read_ports :
    (after (v10 (startIn 0x30 false true))).wires.memBAddr = 0x30 ∧
    (after { blank 1 en with active := true, base := 0x10, cursor := 0x11 }).wires.memAAddr = 0x11 ∧
    (after { blank 1 en with active := true, base := 0x10, cursor := 0x11 }).wires.memBAddr = 0x10 := by
  decide

/-- 95_test_vectors.md L2.1: the boundary pairs of the LUT. -/
theorem test_lut_boundaries :
    lut 0x40 = ⟨0, 4⟩ ∧ lut 0x41 = ⟨0x001D, 8⟩ ∧ lut 0x5A = ⟨0x0577, 14⟩ ∧ lut 0x5B = ⟨0, 4⟩ := by decide

/-- 95_test_vectors.md L2.1: the `on` and `bits` columns, A to Z. -/
theorem test_lut_counts :
    alphabet.toList.map (fun e => ((entrySlots e).count true, e.bits.toNat)) =
      [(4, 8), (6, 12), (8, 14), (5, 10), (1, 4), (6, 12), (7, 12), (4, 10), (2, 6), (10, 16), (7, 12),
       (6, 12), (6, 10), (4, 8), (9, 14), (8, 14), (10, 16), (5, 10), (3, 8), (3, 6), (5, 10), (6, 12),
       (7, 12), (8, 14), (10, 16), (8, 14)] := by decide

/-- 95_test_vectors.md P1: the slots of "SOS". -/
theorem test_slots_SOS : (messageSlots [0x53, 0x4F, 0x53]).map Bool.toNat =
    [1,0,1,0,1,0,0,0, 1,1,1,0,1,1,1,0,1,1,1,0,0,0, 1,0,1,0,1,0,0,0] := by decide

/-- The table's word of START, fetched as the first operation after reset. -/
theorem test_fetch_start :
    (after (State.reset.withFetchWord 8 0b00001010)).active = true ∧
    (after (State.reset.withFetchWord 8 0b00001010)).repeatFlag = true ∧
    (after (State.reset.withFetchWord 8 0b00001010)).wires.tick = false := by decide
/-- The word of TICK. -/
theorem test_fetch_tick : (after (State.reset.withFetchWord 8 0b00010000)).wires.tick = true := by decide

/-- BITS = 17 and PSC = PRESCALE_N are refused by name (93_implementation_defined.md I10). -/
theorem test_refusals :
    refusalOf (step { blank 1 en with active := true, bits := 17 }) = some .bitsOutsideModel ∧
    refusalOf (step { blank 3 en with psc := 3 }) = some .pscOutsideModel := by decide

/-! ### Witnesses: for every statement with hypotheses, values that meet them all together -/

/-- An active session between letters, at a cursor. -/
def between (cursor base : Nat) (rep : Bool) : State :=
  { blank 1 en with active := true, cursor := cursor, base := base, repeatFlag := rep }

/-- PRESCALE_N = 3, enabled, at a prescaler count. -/
def counting (psc : Nat) : State := { blank 3 en with psc := psc }

/-- An active session with a number of slots left. -/
def within (bits : SlotCount) : State := { blank 1 en with active := true, bits := bits }

theorem witness_StartBeginsANewSession :
    (0b011011#6 &&& 0b101100#6 = 0b001000#6) ∧
    (blank 1 en).memRead 0x20 = 0 ∧ (blank 1 en).memRead 0xFFFF ≠ 0 := by decide
theorem witness_CancelEndsAnySession : 0b011111#6 &&& 0b101100#6 = 0b001100#6 := by decide
theorem witness_IdleStepHasNoEffect : (blank 1 en).active = false := by decide
theorem witness_LoadTickConsumesACharacter :
    (between 0xFFFF 0 false).active = true ∧ (between 0xFFFF 0 false).bits = 0 ∧
    (between 0xFFFF 0 false).memRead (between 0xFFFF 0 false).cursor ≠ 0 := by decide
theorem witness_TerminatorEndsANonRepeatingSession :
    (between 0x11 0x10 false).active = true ∧ (between 0x11 0x10 false).bits = 0 ∧
    (between 0x11 0x10 false).memRead (between 0x11 0x10 false).cursor = 0 ∧
    (between 0x11 0x10 false).repeatFlag = false := by decide
theorem witness_TerminatorRestartsARepeatingSession :
    (between 0x11 0x10 true).active = true ∧ (between 0x11 0x10 true).bits = 0 ∧
    (between 0x11 0x10 true).memRead (between 0x11 0x10 true).cursor = 0 ∧
    (between 0x11 0x10 true).repeatFlag = true ∧
    (between 0x11 0x10 true).memRead (between 0x11 0x10 true).base ≠ 0 := by decide
theorem witness_EmptyRestartEndsTheSession :
    (between 0x20 0x20 true).active = true ∧ (between 0x20 0x20 true).bits = 0 ∧
    (between 0x20 0x20 true).memRead (between 0x20 0x20 true).cursor = 0 ∧
    (between 0x20 0x20 true).repeatFlag = true ∧
    (between 0x20 0x20 true).memRead (between 0x20 0x20 true).base = 0 := by decide
theorem witness_MidLetterStepEmitsAndShifts :
    ((within 1).active = true ∧ (within 1).bits ≠ 0 ∧ (within 1).bits.toNat ≤ 16) ∧
    ((within 16).active = true ∧ (within 16).bits ≠ 0 ∧ (within 16).bits.toNat ≤ 16) := by decide
theorem witness_StepCompletesAndKeepsTheRest : (within 16).StepReady := fun _ => by decide
theorem witness_TickRunsItsThreeDuties :
    (within 16).StepReady ∧ 0b011111#6 &&& 0b110000#6 = 0b010000#6 := ⟨fun _ => by decide, by decide⟩
theorem witness_LoadCntReplacesTheCounter :
    0b011111#6 &&& 0b100001#6 = 0b000001#6 ∧ (within 0).StepReady := ⟨by decide, fun _ => by decide⟩
theorem witness_OnlyMeaninglessBitsStopAnOperation :
    (within 17).active = true ∧ 16 < (within 17).bits.toNat := by decide
theorem witness_OperationsNeverWriteTheMessageMemory :
    (nextOf (exec .step (within 16))).isSome = true ∧ Instr.nop ≠ .step ∧
    (∀ running, Instr.nop ≠ .tick running) ∧ (nextOf (exec .nop (within 16))).isSome = true :=
  ⟨by decide, by decide, fun _ => by simp, by decide⟩
theorem witness_EventVectorIsFormedFromThePorts : t11.currentInput.rst = true := by decide
theorem witness_SelectionFollowsTheMasks : 0b111111#6 &&& 0b100000#6 = 0b100000#6 := by decide
theorem witness_EveryEventVectorIsLegal :
    (∀ i, some (Instr.start 1 true) = some i → (∃ a r, i = .start a r) ∨ ∃ a r, i = .cancel a r) ∧
    ¬ (some (Instr.start 1 true) = none ∧ (none : Option Bool) = none ∧ (none : Option Nat) = none) ∧
    ¬ ((none : Option Instr) = none ∧ (none : Option Bool) = none ∧ some (0 : Nat) = none) :=
  ⟨fun _ h => .inl ⟨1, true, (Option.some.inj h).symm⟩, by simp, by simp⟩
theorem witness_EveryEventVectorIsLegal_ignored_fields :
    (⟨0b000110, 5, 7, false⟩ : EventWord) ≠ ⟨0b000000, 6, 8, false⟩ ∧
    (0b000110#6).getLsbD 5 = (0b000000#6).getLsbD 5 ∧ (0b000110#6).getLsbD 4 = (0b000000#6).getLsbD 4 ∧
    (0b000110#6).getLsbD 3 = (0b000000#6).getLsbD 3 ∧ (0b000110#6).getLsbD 0 = (0b000000#6).getLsbD 0 ∧
    (0b000110#6).getLsbD 3 = false ∧ (0b000110#6).getLsbD 0 = false := by decide
theorem witness_DecodingAnEncodedCycleGivesItBack :
    cycleWellFormed [.start 0xFFF true, .tick true, .loadCnt 7] = true ∧
    ∀ i ∈ [Instr.start 0xFFF true, .tick true, .loadCnt 7], i.fits narrow = true := by decide
theorem witness_BytesAreRefusedByName :
    ([0, 0, 0, 0] : List Byte).length < wordBytes narrow ∧
    (wordBytes narrow ≤ ([64, 0, 0, 0, 0] : List Byte).length ∧
      64 ≤ (([64, 0, 0, 0, 0] : List Byte).getD 0 0).toNat) ∧
    ((([63, 0, 0x10, 0, 0] : List Byte).getD 0 0).toNat < 64 ∧
      2 ^ narrow.addrW ≤ addrField narrow [63, 0, 0x10, 0, 0]) ∧
    (addrField narrow [63, 0xFF, 0x0F, 8, 0] < 2 ^ narrow.addrW ∧
      2 ^ narrow.cntW ≤ countField narrow [63, 0xFF, 0x0F, 8, 0]) ∧
    (countField narrow [63, 0xFF, 0x0F, 7, 2] < 2 ^ narrow.cntW ∧
      2 ≤ (([63, 0xFF, 0x0F, 7, 2] : List Byte).getD (wordBytes narrow - 1) 0).toNat) ∧
    (([63, 0xFF, 0x0F, 7, 1] : List Byte).getD (wordBytes narrow - 1) 0).toNat < 2 := by decide
theorem witness_BytesAreRefusedByName_accepted :
    decodeBytes narrow [63, 0xFF, 0x0F, 7, 1, 0xAA] = .ok ([.reset], [0xAA]) := by rfl
theorem witness_StepRunsTheDecodedOperations :
    (blank 1 en).pscOutsideModel = false ∧
    decodeBytes (blank 1 en).build (encodeWord (blank 1 en).build (blank 1 en).eventWord) =
      .ok ([.tick false], []) ∧
    (nextOf (exec (.tick false) (blank 1 en).openCycle)).isSome = true :=
  ⟨by decide, by rfl, by decide⟩
theorem witness_StepIsTheNextStateFunction :
    (within 16).pscOutsideModel = false ∧ (within 16).tickNow = true ∧
    (Reference.seen (within 16)).active = true ∧ (Reference.seen (within 16)).bits.toNat ≤ 16 := by decide
theorem witness_CyclesStopOnlyOutsideTheModel :
    (∃ s : State, s.currentInput.rst = false ∧ s.currentInput.clkEn = true ∧
      s.build.prescaleN ≤ s.psc) ∧
    ((within 17).pscOutsideModel = false ∧ (within 17).tickNow = true ∧
      (Reference.seen (within 17)).active = true ∧ 16 < (Reference.seen (within 17)).bits.toNat) :=
  ⟨⟨counting 3, by decide⟩, by decide⟩
theorem witness_ResetCycleOverridesEveryInput : t11.currentInput.rst = true := by decide
theorem witness_NopCycleOnlyCounts :
    let s := { blank 3 en with psc := 1 }
    s.currentInput.rst = false ∧ s.tickNow = false ∧ s.currentInput.startValid = false ∧
      s.currentInput.cntLoadValid = false ∧ s.pscOutsideModel = false := by decide
theorem witness_StartRequestsAreAtomic :
    let s := v10 (startIn 0x30 true false)
    s.currentInput.rst = false ∧ s.currentInput.startValid = true ∧ s.tickNow = false ∧
      step s = .next (after s) := ⟨by decide, by decide, by decide, step_after (by decide)⟩
theorem witness_ResetMeetsTheInvariant :
    (Build.mk 1 1 1).Ok ∧ (Build.mk 64 32 1000).Ok ∧ Memory.wf (2 ^ 1) [(1, 0x41)] ∧
    Memory.wf (2 ^ 16) vectorMem := by decide
/-- A state in the middle of the letter A (V3 of 95_test_vectors.md). -/
def v3 : State :=
  { blank 1 en with active := true, base := 0x30, cursor := 0x31, code := 0x000E, bits := 7,
                    faultLed := true }
theorem witness_EveryCycleKeepsTheInvariant : v3.Inv :=
  ⟨by decide, by decide, by decide, by decide, by decide, by decide, by decide, by decide, by decide,
    by decide⟩
theorem witness_ReachableStatesStayInBounds :
    (buildN 3).Ok ∧ Memory.wf (2 ^ (buildN 3).addrW) vectorMem := by decide
theorem witness_PscFitsItsWidth : (1 ≤ 1 ∧ 0 < 1) ∧ (1 ≤ 5 ∧ 4 < 5) := by decide
theorem witness_PrescalerMakesTheTick :
    (step (counting 2) = .next (after (counting 2)) ∧ (counting 2).currentInput.rst = false ∧
      (counting 2).currentInput.clkEn = true ∧ (counting 2).psc = (counting 2).build.prescaleN - 1) ∧
    (step (counting 1) = .next (after (counting 1)) ∧
      (counting 1).psc ≠ (counting 1).build.prescaleN - 1) ∧
    (step t11 = .next (after t11) ∧ t11.currentInput.rst = true) :=
  ⟨⟨step_after (by decide), by decide⟩, ⟨step_after (by decide), by decide⟩,
    step_after (by decide), by decide⟩
theorem witness_StoppedEnableFreezesTheTimeBase :
    ((blank 3 {}).currentInput.rst = false ∧ (blank 3 {}).currentInput.clkEn = false ∧
      (blank 3 {}).currentInput.startValid = false) ∧
    (blank 1 en).build.prescaleN = 1 ∧ (blank 1 en).psc = 0 ∧
    (blank 1 en).currentInput.rst = false ∧ step (blank 1 en) = .next (after (blank 1 en)) :=
  ⟨by decide, by decide, by decide, by decide, step_after (by decide)⟩
theorem witness_HeartbeatTogglesWhileRunning :
    let s := blank 1 { en with running := true }
    s.currentInput.rst = false ∧ step s = .next (after s) ∧ (after s).wires.tick = true ∧
      s.currentInput.running = true ∧ (after (blank 1 en)).wires.tick = true ∧
      (after (blank 1 {})).wires.tick = false :=
  ⟨by decide, step_after (by decide), by decide, by decide, by decide, by decide⟩
theorem witness_CountdownStopsAtZero :
    let s := { blank 1 en with cnt := 1 }
    let s' := blank 1 { cntLoadValid := true, cntLoadValue := 0xFFFFFFFF }
    (s.currentInput.rst = false ∧ step s = .next (after s) ∧ s.currentInput.cntLoadValid = false ∧
      (after s).wires.tick = true ∧ s.cnt ≠ 0) ∧
    (step s' = .next (after s') ∧ s'.currentInput.cntLoadValid = true) ∧
    (blank 1 en).cnt = 0 ∧ (after (blank 1 {})).wires.tick = false :=
  ⟨⟨by decide, step_after (by decide), by decide, by decide, by decide⟩,
    ⟨step_after (by decide), by decide⟩, by decide, by decide⟩
theorem witness_MuxPrefersTheStepWrite :
    let s := v10 (startIn 0x30 false true)
    let s' := v10 (startIn 0x30 true false)
    (s.currentInput.rst = false ∧ step s = .next (after s) ∧ (after s).wires.faultWe = true) ∧
    (step s' = .next (after s') ∧ (after s').wires.faultWe = false ∧
      s'.currentInput.startValid = true) ∧
    (after (v10 {})).wires.faultWe = false ∧ (v10 {}).currentInput.startValid = false :=
  ⟨⟨by decide, step_after (by decide), by decide⟩,
    ⟨step_after (by decide), by decide, by decide⟩, by decide, by decide⟩
theorem witness_TicksComeEveryPrescaleN :
    let s := { blank 3 en with inputs := [en, {}, en, en] }
    s.Inv ∧ s.psc = 0 ∧ s.inputs = [en, {}, en] ++ en :: [] ∧ (∀ d ∈ [en, {}, en], d.rst = false) ∧
      en.rst = false ∧ (([en, {}, en] ++ [en]).filter (·.clkEn)).length % s.build.prescaleN = 0 :=
  ⟨⟨by decide, by decide, by decide, by decide, by decide, by decide, by decide, by decide, by decide,
    by decide⟩, by decide, by decide, by decide, by decide, by decide⟩
theorem witness_HeartbeatIsASquareWave : (within 16).StepReady := fun _ => by decide
theorem witness_CountdownCountsTicks : (within 16).StepReady := fun _ => by decide
theorem witness_StepWritesExactlyWhereASessionEmits :
    step (within 16) = .next (after (within 16)) ∧ (after (within 16)).wires.faultWe = true ∧
    step (blank 1 en) = .next (after (blank 1 en)) ∧ (after (blank 1 en)).wires.faultWe = false :=
  ⟨step_after (by decide), by decide, step_after (by decide), by decide⟩
theorem witness_LettersLastTheirBitCount :
    let s := between 0x10 0x10 false
    s.active = true ∧ s.bits = 0 ∧ s.memRead s.cursor ≠ 0 ∧ 1 ≤ [true].length ∧
      [true, false, true, false].length = (lut (s.memRead s.cursor)).bits.toNat := by decide

/-- A memory that holds "T" across the top of a 16-bit address space. -/
def wrapped (cs : List CycleIn) : State := { blank 1 en with inputs := cs }

theorem witness_AMessageIsSentOnce :
    let s := wrapped (startIn 0xFFFF false true :: [en, {}] ++ [en])
    s.psc < s.build.prescaleN ∧ 0xFFFF < 2 ^ s.build.addrW ∧
      s.inputs = startIn 0xFFFF false true :: [en, {}] ++ [en] ∧
      (startIn 0xFFFF false true).Starts 0xFFFF false ∧ (∀ d ∈ [en, {}], d.Undisturbed) ∧
      [(0x54 : Byte)] ≠ [] ∧ s.messageAt 0xFFFF [0x54] :=
  ⟨by decide, by decide, rfl, ⟨rfl, rfl, rfl, rfl, rfl, rfl⟩,
    fun d h => by simp at h; rcases h with rfl | rfl <;> exact ⟨rfl, rfl, rfl⟩, by decide,
    ⟨fun | 0, _ => ⟨rfl, by simp⟩, by decide⟩⟩
theorem witness_ARepeatingMessageIsPeriodic :
    let s := wrapped (startIn 0x10 true true :: [en] ++ [])
    s.psc < s.build.prescaleN ∧ 0x10 < 2 ^ s.build.addrW ∧
      s.inputs = startIn 0x10 true true :: [en] ++ [] ∧
      (startIn 0x10 true true).Starts 0x10 true ∧ (∀ d ∈ [en], d.Undisturbed) ∧
      [(0x45 : Byte)] ≠ [] ∧ s.messageAt 0x10 [0x45] :=
  ⟨by decide, by decide, rfl, ⟨rfl, rfl, rfl, rfl, rfl, rfl⟩,
    fun d h => by simp at h; subst h; exact ⟨rfl, rfl, rfl⟩, by decide,
    ⟨fun | 0, _ => ⟨rfl, by simp⟩, by decide⟩⟩
theorem witness_AnEmptyMessageIsIdle :
    let s := wrapped (startIn 0x20 true true :: [en] ++ [])
    s.psc < s.build.prescaleN ∧ 0x20 < 2 ^ s.build.addrW ∧
      s.inputs = startIn 0x20 true true :: [en] ++ [] ∧ (startIn 0x20 true true).Starts 0x20 true ∧
      (∀ d ∈ [en], d.Undisturbed) ∧ s.memRead 0x20 = 0 :=
  ⟨by decide, by decide, rfl, ⟨rfl, rfl, rfl, rfl, rfl, rfl⟩,
    fun d h => by simp at h; subst h; exact ⟨rfl, rfl, rfl⟩, by decide⟩
theorem witness_ASessionForgetsItsPast :
    let s := v10 (startIn 0x30 false true)
    let s' := { blank 1 (startIn 0x30 false true) with cnt := 5 }
    s'.build = s.build ∧ s'.psc = s.psc ∧ s'.mem = s.mem ∧ s'.inputs = s.inputs ∧
      s'.cycle = s.cycle ∧ s.currentInput.rst = false ∧ s.currentInput.startValid = true ∧ s' ≠ s := by
  decide
theorem witness_IdleIsIdempotent :
    let s := wrapped ([en, en] ++ [])
    s.active = false ∧ s.psc < s.build.prescaleN ∧ s.inputs = [en, en] ++ [] ∧
      ∀ d ∈ [en, en], d.rst = false ∧ d.startValid = false := by decide
theorem witness_MorseAndTimersAreIndependent_morse :
    let s := { v3 with inputs := [en] ++ [] }
    let s' := { v3 with inputs := [{ en with running := true, cntLoadValid := true }] ++ [], cnt := 7 }
    s'.build = s.build ∧ s'.psc = s.psc ∧ s'.mem = s.mem ∧ Reference.session s' = Reference.session s ∧
      s'.faultLed = s.faultLed ∧ s' ≠ s ∧
      List.Forall₂ CycleIn.SameForMorse [en] [{ en with running := true, cntLoadValid := true }] :=
  ⟨rfl, rfl, rfl, rfl, rfl, by decide, .cons rfl .nil⟩
theorem witness_MorseAndTimersAreIndependent_timers :
    let s := blank 1 en
    let s' := { v3 with inputs := [startIn 0x10 true true] }
    s.Inv ∧ s'.Inv ∧ s'.build = s.build ∧ s'.psc = s.psc ∧ s'.hbLed = s.hbLed ∧ s'.cnt = s.cnt ∧
      List.Forall₂ CycleIn.SameForTimers [en] [startIn 0x10 true true] :=
  ⟨⟨by decide, by decide, by decide, by decide, by decide, by decide, by decide, by decide, by decide,
    by decide⟩, ⟨by decide, by decide, by decide, by decide, by decide, by decide, by decide, by decide,
    by decide, by decide⟩, rfl, rfl, rfl, rfl, .cons rfl .nil⟩
theorem witness_ReadPortsFollowTheSessionSeen :
    step (between 0x11 0x10 true) = .next (after (between 0x11 0x10 true)) ∧
    (after (between 0x11 0x10 true)).wires.memBEn = true := ⟨step_after (by decide), by decide⟩
theorem witness_OutsideWritesAreSeenFromTheNextCycle :
    let s := blank 1 { en with memWrites := [(0xFFFF, 1), (0xFFFF, 0x41), (0x10, 2)] }
    s.inputs = { en with memWrites := [(0xFFFF, 1), (0xFFFF, 0x41), (0x10, 2)] } :: [] ∧
      0xFFFF < 2 ^ s.build.addrW ∧ step s = .next (after s) ∧
      s.currentInput.memWrites = [(0xFFFF, 1)] ++ (0xFFFF, 0x41) :: [(0x10, 2)] ∧
      (∀ w ∈ [((0x10 : Nat), (2 : Byte))], fitAddr s.build w.1 ≠ 0xFFFF) ∧
      (∀ w ∈ s.currentInput.memWrites, fitAddr s.build w.1 ≠ 0x30) :=
  ⟨rfl, by decide, step_after (by decide), rfl,
    fun w h => by
      cases List.mem_singleton.1 h
      decide,
    List.forall_mem_cons.2 ⟨by decide, List.forall_mem_cons.2 ⟨by decide,
      List.forall_mem_singleton.2 (by decide)⟩⟩⟩
theorem witness_AddressesWrap :
    let s := between 0xFFFF 0 false
    let s' := between 0x11 0xFFFF true
    (s.active = true ∧ s.bits = 0 ∧ s.cursor = 2 ^ s.build.addrW - 1 ∧
      s.memRead s.cursor ≠ 0) ∧
    (s'.active = true ∧ s'.bits = 0 ∧ s'.repeatFlag = true ∧ s'.memRead s'.cursor = 0 ∧
      s'.base = 2 ^ s'.build.addrW - 1 ∧ s'.memRead s'.base ≠ 0) := by decide
theorem witness_BytesFallIntoThreeClasses :
    (0x00#8).toNat = 0 ∧ (0x41 ≤ (0x41#8).toNat ∧ (0x5A#8).toNat ≤ 0x5A) ∧
    (0x01 ≤ (0x01#8).toNat ∧ (0x40#8).toNat ≤ 0x40) ∧ 0x5B ≤ (0x5B#8).toNat ∧ 0x5B ≤ (0xFF#8).toNat := by
  decide
theorem witness_LutMapsEveryByte :
    (0x5A#8 ≠ 0 ∧ (0x5A#8).toNat = 0x41 + (25 : Fin 26).val) ∧
    (0x40#8).toNat < 0x41 ∧ 0x5A < (0x5B#8).toNat := by decide
theorem witness_LettersAreBuiltFromTheirMorse : 15 < (letterSlots morse[(9 : Fin 26)]).length := by decide
theorem witness_GapsHaveTheirLengths :
    classify 0x41 = .letter 0 ∧ ∀ d ∈ ([0x20, 0x30] : List Byte), classify d = .nonLetter := by decide

end Sys2Proof.Tests
end

section
/-! SUPPORT. A cycle without reset as parts 2 to 4 of 41_tick_scheduler.md R110, one after the other,
and a reset cycle. -/

namespace Sys2Proof.Machine

/-! ### What each operation does, through the shared updates -/

@[simp] theorem exec_start (a : Nat) (r : Bool) (s : State) :
    exec (.start a r) s = .next (s.replaceSession false a r) := rfl
@[simp] theorem exec_cancel (a : Nat) (r : Bool) (s : State) :
    exec (.cancel a r) s = .next (s.replaceSession true a r) := rfl
@[simp] theorem exec_loadCnt (v : Nat) (s : State) : exec (.loadCnt v) s = .next (s.setCnt v) := rfl
@[simp] theorem exec_tick (running : Bool) (s : State) :
    exec (.tick running) s = (s.heartbeat running).countdown.encoderStep := rfl
@[simp] theorem exec_step (s : State) : exec .step s = s.encoderStep := rfl
@[simp] theorem exec_reset (s : State) : exec .reset s = .next s.clearRegisters.quiet := rfl
@[simp] theorem exec_nop (s : State) : exec .nop s = .next s.quiet := rfl

/-! ### Lists of operations -/

@[simp] theorem runOps_singleton (i : Instr) (s : State) : runOps [i] s = exec i s := by
  cases hi : exec i s <;> simp [runOps, hi]

/-- Operations one after the other have a next state exactly where both parts have one. -/
theorem runOps_append_eq_next {is js : List Instr} {s t : State} :
    runOps (is ++ js) s = .next t ↔ ∃ u, runOps is s = .next u ∧ runOps js u = .next t := by
  induction is generalizing s with
  | nil => simp
  | cons i is ih =>
    cases hi : exec i s with
    | next u => simp [runOps, hi, ih]
    | fault f => simp [runOps, hi]
    | refused r => simp [runOps, hi]

namespace State

/-! ### The stages of a cycle -/

/-- R110, part 2: the opened cycle after a start request, if there is one. -/
def startStage (s : State) : State :=
  if s.currentInput.startValid then
    s.openCycle.replaceSession s.currentInput.startNull (fitAddr s.build s.currentInput.startAddr)
      s.currentInput.startRepeat
  else s.openCycle

/-- R110, part 3: the three duties of a tick, if there is one. -/
def tickStage (s : State) : State :=
  if s.tickNow then (s.startStage.heartbeat s.currentInput.running).countdown.encoderNext
  else s.startStage

/-- R110, part 4: a counter load, if there is one. -/
def loadStage (s : State) : State :=
  if s.currentInput.cntLoadValid then
    s.tickStage.setCnt (fitCount s.build s.currentInput.cntLoadValue)
  else s.tickStage

@[simp] theorem startStage_wires (s : State) : s.startStage.wires = s.openCycle.wires := by
  unfold startStage
  split <;> rfl

@[simp] theorem startStage_mem (s : State) : s.startStage.mem = s.mem := by
  unfold startStage
  split <;> rfl

@[simp] theorem loadStage_wires (s : State) : s.loadStage.wires = s.tickStage.wires := by
  unfold loadStage
  split <;> rfl

/-- The timer duties do not touch what STEP's meaning depends on. -/
@[simp] theorem countdown_heartbeat_bitsOutsideModel (s : State) (running : Bool) :
    (s.heartbeat running).countdown.bitsOutsideModel = s.bitsOutsideModel := rfl

theorem runOps_session (s : State) :
    runOps (if s.currentInput.startValid then
        [if s.currentInput.startNull then
          .cancel (fitAddr s.build s.currentInput.startAddr) s.currentInput.startRepeat
        else .start (fitAddr s.build s.currentInput.startAddr) s.currentInput.startRepeat]
      else []) s.openCycle = .next s.startStage := by
  unfold startStage
  cases s.currentInput.startValid
  · simp
  · cases s.currentInput.startNull <;> simp

theorem runOps_tick {s u : State} :
    runOps (if s.tickNow then [.tick s.currentInput.running] else []) s.startStage = .next u ↔
      (s.tickNow = true → s.startStage.bitsOutsideModel = false) ∧ u = s.tickStage := by
  unfold tickStage
  cases s.tickNow
  · simpa using eq_comm
  · simp [encoderStep_eq_next]

theorem runOps_load (s : State) :
    runOps (if s.currentInput.cntLoadValid then
        [.loadCnt (fitCount s.build s.currentInput.cntLoadValue)]
      else []) s.tickStage = .next s.loadStage := by
  unfold loadStage
  cases s.currentInput.cntLoadValid <;> simp

/-- Where there is no tick, the opened cycle has no strobe to clear. -/
theorem quiet_openCycle {s : State} (h : s.tickNow = false) : s.openCycle.quiet = s.openCycle := by
  simp [quiet, openCycle, Wires.zero, h]

/-- The operations of a cycle without reset are its stages, and only the tick's can stop. -/
theorem runOps_decodeEvent {s u : State} (hr : s.currentInput.rst = false) :
    runOps (decodeEvent s.eventWord) s.openCycle = .next u ↔
      (s.tickNow = true → s.startStage.bitsOutsideModel = false) ∧ u = s.loadStage := by
  rw [decodeEvent_eventWord, hr, if_neg (by decide)]
  split
  next hnop =>
    obtain ⟨⟨ht, hs⟩, hl⟩ : (s.tickNow = false ∧ s.currentInput.startValid = false) ∧
      s.currentInput.cntLoadValid = false := by simpa using hnop
    have hload : s.loadStage = s.openCycle := by simp [loadStage, tickStage, startStage, ht, hs, hl]
    simpa [quiet_openCycle ht, hload, ht] using eq_comm
  next =>
    rw [runOps_append_eq_next, runOps_append _ _ _ _ s.runOps_session]
    constructor
    · rintro ⟨v, htick, hload⟩
      obtain ⟨hbits, rfl⟩ := runOps_tick.1 htick
      rw [runOps_load] at hload
      cases hload
      exact ⟨hbits, rfl⟩
    · rintro ⟨hbits, rfl⟩
      exact ⟨_, runOps_tick.2 ⟨hbits, rfl⟩, s.runOps_load⟩

end State

/-- A cycle without reset has a next state exactly where PSC and the BITS it uses have a meaning
(10_state.md R26, R38), and then it is its stages (41_tick_scheduler.md R110). -/
theorem step_eq_next_of_not_rst {s t : State} (hr : s.currentInput.rst = false) :
    step s = .next t ↔ s.pscOutsideModel = false ∧
      (s.tickNow = true → s.startStage.bitsOutsideModel = false) ∧
      t = s.loadStage.closeCycle s.currentInput.memWrites := by
  unfold step State.runCycle
  cases s.pscOutsideModel
  · simp [closing_eq_next, State.runOps_decodeEvent hr, and_assoc]
  · simp

/-- A reset cycle completes from every state (70_reset_and_hazards.md R140). -/
theorem step_of_rst {s : State} (hr : s.currentInput.rst = true) :
    step s = .next (s.openCycle.clearRegisters.quiet.closeCycle s.currentInput.memWrites) := by
  simp [step, State.runCycle, State.pscOutsideModel, decodeEvent_eventWord, hr]

/-- The combinational outputs are complete with the tick, also in a reset cycle, which has none. -/
theorem step_wires {s t : State} (h : step s = .next t) : t.wires = s.tickStage.wires := by
  cases hr : s.currentInput.rst with
  | false =>
    obtain ⟨_, _, rfl⟩ := (step_eq_next_of_not_rst hr).1 h
    simp
  | true =>
    rw [step_of_rst hr] at h
    cases h
    simp [State.tickStage, tickNow_of_rst hr, Wires.zero]

end Sys2Proof.Machine
end

section
/-! SUPPORT. STEP as an operation, its load tick, and the memory strobes it drives. -/

namespace Sys2Proof.Machine

/-- STEP completes wherever BITS has a meaning (40_morse_encoder.md R82). -/
theorem exec_step_of_ready {s : State} (h : s.StepReady) : exec .step s = .next s.encoderNext :=
  State.encoderStep_eq_next.2 ⟨State.bitsOutsideModel_eq_false.2 h, rfl⟩

namespace State

theorem stepReady_of_bits_eq_zero {s : State} (h : s.bits = 0) : s.StepReady := by
  simp [StepReady, h]

/-- A load tick consumes the character at CURSOR (40_morse_encoder.md R84). -/
theorem encoderNext_of_character {s : State} (ha : s.active = true) (hb : s.bits = 0)
    (hc : s.memRead s.cursor ≠ 0) :
    s.encoderNext =
      s.quietStep.usePortA.consume (s.memRead s.cursor) (nextAddr s.build s.cursor) := by
  have h := encoderNext_cases s
  simp_all

/-- A restart consumes the character at BASE (40_morse_encoder.md R86). -/
theorem encoderNext_of_restart {s : State} (ha : s.active = true) (hb : s.bits = 0)
    (hr : s.repeatFlag = true) (hc : s.memRead s.cursor = 0) (hc' : s.memRead s.base ≠ 0) :
    s.encoderNext =
      s.quietStep.usePortA.usePortB.consume (s.memRead s.base) (nextAddr s.build s.base) := by
  have h := encoderNext_cases s
  simp_all

/-- STEP uses port A exactly in a load tick (20_memory.md R41). -/
theorem encoderNext_memAEn (s : State) :
    s.encoderNext.wires.memAEn = true ↔ s.active = true ∧ s.bits = 0 := by
  rcases encoderNext_cases s with ⟨ha, h⟩ | ⟨ha, hb, h⟩ | ⟨ha, hb, hc, h⟩ | ⟨ha, hb, hc, hr, h⟩ |
    ⟨ha, hb, hc, hr, hc', h⟩ | ⟨ha, hb, hc, hr, hc', h⟩ <;> simp_all

/-- STEP uses port B exactly at the terminator of a message that repeats (20_memory.md R41). -/
theorem encoderNext_memBEn (s : State) :
    s.encoderNext.wires.memBEn = true ↔
      s.active = true ∧ s.bits = 0 ∧ s.memRead s.cursor = 0 ∧ s.repeatFlag = true := by
  rcases encoderNext_cases s with ⟨ha, h⟩ | ⟨ha, hb, h⟩ | ⟨ha, hb, hc, h⟩ | ⟨ha, hb, hc, hr, h⟩ |
    ⟨ha, hb, hc, hr, hc', h⟩ | ⟨ha, hb, hc, hr, hc', h⟩ <;> simp_all

end State
end Sys2Proof.Machine
end

section
/-! The statements of 20_memory.md on the read ports and on the address arithmetic. -/

namespace Sys2Proof.Machine

namespace State

/-! ### The read ports -/

/-- The session that STEP sees is the one of 41_tick_scheduler.md R110, part 2. -/
theorem session_startStage (s : State) : Reference.session s.startStage = Reference.seen s :=
  apply_ite Reference.session (s.currentInput.startValid = true) _ _

theorem portAAddr_eq_seen (s : State) : s.portAAddr = (Reference.seen s).cursor := by
  simp only [portAAddr, Reference.seen]
  split <;> rfl

theorem portBAddr_eq_seen (s : State) : s.portBAddr = (Reference.seen s).base := by
  simp only [portBAddr, Reference.seen]
  split <;> rfl

/-- A tick leaves the read addresses as the cycle opened them. -/
theorem tickStage_readAddrs (s : State) :
    s.tickStage.wires.memAAddr = s.portAAddr ∧ s.tickStage.wires.memBAddr = s.portBAddr := by
  unfold tickStage
  split
  · obtain ⟨-, -, -, -, -, -, -, -, -, -, ha, hb⟩ :=
      encoderNext_frame (s.startStage.heartbeat s.currentInput.running).countdown
    simp [ha, hb]
  · simp

theorem tickStage_memAEn (s : State) :
    s.tickStage.wires.memAEn = true ↔
      s.tickNow = true ∧ (Reference.seen s).active = true ∧ (Reference.seen s).bits = 0 := by
  rw [← session_startStage]
  unfold tickStage
  cases s.tickNow
  · simp [Wires.zero]
  · simpa [Reference.session] using
      encoderNext_memAEn (s.startStage.heartbeat s.currentInput.running).countdown

theorem tickStage_memBEn (s : State) :
    s.tickStage.wires.memBEn = true ↔
      s.tickNow = true ∧ (Reference.seen s).active = true ∧ (Reference.seen s).bits = 0 ∧
        s.memRead (Reference.seen s).cursor = 0 ∧ (Reference.seen s).repeatFlag = true := by
  rw [← session_startStage]
  unfold tickStage
  cases s.tickNow
  · simp [Wires.zero]
  · simpa [Reference.session, memRead] using
      encoderNext_memBEn (s.startStage.heartbeat s.currentInput.running).countdown

end State

/-- Settles O48: the outputs of a cycle are those of its tick stage, and STEP there sees the session of
R110, part 2. -/
theorem readPortsFollowTheSessionSeen : Obligations.ReadPortsFollowTheSessionSeen := by
  intro s t h
  have hw := step_wires h
  obtain ⟨ha, hb⟩ := s.tickStage_readAddrs
  rw [← hw] at ha hb
  refine ⟨ha, hb, ha.trans s.portAAddr_eq_seen, hb.trans s.portBAddr_eq_seen, ?_, ?_⟩
  · rw [hw, s.tickStage_memAEn]
  · rw [ha, s.portAAddr_eq_seen, hw, s.tickStage_memBEn]

/-! ### Address arithmetic -/

/-- The top address is followed by 0, in every build. -/
theorem nextAddr_eq_zero_of_top {b : Build} {a : Nat} (ha : a = 2 ^ b.addrW - 1) :
    nextAddr b a = 0 :=
  nextAddr_top (by rw [ha, Nat.sub_add_cancel Nat.one_le_two_pow])

/-- Settles O50: a load tick and a restart move CURSOR to the next address, which is 0 after the top. -/
theorem addressesWrap : Obligations.AddressesWrap := by
  refine ⟨fun _ _ => rfl, ?_, ?_⟩
  · intro s ha hb htop hc
    refine ⟨_, exec_step_of_ready (State.stepReady_of_bits_eq_zero hb), ?_⟩
    simp [State.encoderNext_of_character ha hb hc, nextAddr_eq_zero_of_top htop]
  · intro s ha hb hr hc htop hc'
    refine ⟨_, exec_step_of_ready (State.stepReady_of_bits_eq_zero hb), ?_⟩
    simp [State.encoderNext_of_restart ha hb hr hc hc', nextAddr_eq_zero_of_top htop]

end Sys2Proof.Machine
end

section
/-! What the rows of the opcode table select, and the statements of 30_encoding.md on selection. -/

namespace Sys2Proof

open Sys2Proof.Machine

/-! ### The rows as conditions on the bits of an event vector -/

/-- The six fields of 30_encoding.md R60 are all of an event vector. -/
theorem eventVector_getLsbD : ∀ ev : EventVector,
    State.eventVector (ev.getLsbD 5) (ev.getLsbD 4) (ev.getLsbD 3) (ev.getLsbD 2) (ev.getLsbD 1)
      (ev.getLsbD 0) = ev := by
  decide

/-- `selects_eventVector`, read off the bits of any event vector. -/
theorem selects_eq_bits (ev : EventVector) :
    resetRow.selects ev = ev.getLsbD 5 ∧
    nopRow.selects ev = (!ev.getLsbD 5 && !ev.getLsbD 4 && !ev.getLsbD 3 && !ev.getLsbD 0) ∧
    startRow.selects ev = (!ev.getLsbD 5 && ev.getLsbD 3 && !ev.getLsbD 2) ∧
    cancelRow.selects ev = (!ev.getLsbD 5 && ev.getLsbD 3 && ev.getLsbD 2) ∧
    tickRow.selects ev = (!ev.getLsbD 5 && ev.getLsbD 4) ∧
    loadCntRow.selects ev = (!ev.getLsbD 5 && ev.getLsbD 0) := by
  have h := selects_eventVector (ev.getLsbD 5) (ev.getLsbD 4) (ev.getLsbD 3) (ev.getLsbD 2)
    (ev.getLsbD 1) (ev.getLsbD 0)
  rw [eventVector_getLsbD] at h
  obtain ⟨hreset, hnop, hstart, hcancel, htick, hload, -⟩ := h
  exact ⟨hreset, hnop, hstart, hcancel, htick, hload⟩

/-! ### What an event word selects -/

theorem mem_decodeSession {i : Instr} {w : EventWord} :
    i ∈ decodeSession w ↔
      (startRow.selects w.ev = true ∧ i = .start w.startAddr (evStartRepeat w.ev)) ∨
      (cancelRow.selects w.ev = true ∧ i = .cancel w.startAddr (evStartRepeat w.ev)) := by
  simp only [decodeSession, selects_eq_bits]
  cases w.ev.getLsbD 2 <;> simp

theorem mem_decodeTick {i : Instr} {w : EventWord} :
    i ∈ decodeTick w ↔ tickRow.selects w.ev = true ∧ i = .tick w.running := by
  simp [decodeTick]

theorem mem_decodeLoad {i : Instr} {w : EventWord} :
    i ∈ decodeLoad w ↔ loadCntRow.selects w.ev = true ∧ i = .loadCnt w.cntLoadValue := by
  simp [decodeLoad]

/-- Neither RESET's priority nor NOP's adds a condition of its own: the masks of the other rows already
exclude both. So an operation is selected exactly where its row selects it. -/
theorem mem_decodeEvent {i : Instr} {w : EventWord} :
    i ∈ decodeEvent w ↔
      (resetRow.selects w.ev = true ∧ i = .reset) ∨ (nopRow.selects w.ev = true ∧ i = .nop) ∨
      i ∈ decodeSession w ∨ i ∈ decodeTick w ∨ i ∈ decodeLoad w := by
  rw [mem_decodeSession, mem_decodeTick, mem_decodeLoad]
  unfold decodeEvent
  split
  next hreset => simp_all [selects_eq_bits]
  next hreset =>
    split
    next hnop => simp_all [selects_eq_bits]
    next hnop => simp [mem_decodeSession, mem_decodeTick, mem_decodeLoad, hreset, hnop, or_assoc]

/-! ### Each operation by its row -/

section
variable {w : EventWord}

theorem start_mem_decodeEvent {a : Nat} {r : Bool} : Instr.start a r ∈ decodeEvent w ↔
    startRow.selects w.ev = true ∧ a = w.startAddr ∧ r = evStartRepeat w.ev := by
  simp [mem_decodeEvent, mem_decodeSession, mem_decodeTick, mem_decodeLoad]

theorem cancel_mem_decodeEvent {a : Nat} {r : Bool} : Instr.cancel a r ∈ decodeEvent w ↔
    cancelRow.selects w.ev = true ∧ a = w.startAddr ∧ r = evStartRepeat w.ev := by
  simp [mem_decodeEvent, mem_decodeSession, mem_decodeTick, mem_decodeLoad]

theorem loadCnt_mem_decodeEvent {v : Nat} : Instr.loadCnt v ∈ decodeEvent w ↔
    loadCntRow.selects w.ev = true ∧ v = w.cntLoadValue := by
  simp [mem_decodeEvent, mem_decodeSession, mem_decodeTick, mem_decodeLoad]

theorem tick_mem_decodeEvent {r : Bool} : Instr.tick r ∈ decodeEvent w ↔
    tickRow.selects w.ev = true ∧ r = w.running := by
  simp [mem_decodeEvent, mem_decodeSession, mem_decodeTick, mem_decodeLoad]

theorem reset_mem_decodeEvent : Instr.reset ∈ decodeEvent w ↔ resetRow.selects w.ev = true := by
  simp [mem_decodeEvent, mem_decodeSession, mem_decodeTick, mem_decodeLoad]

theorem nop_mem_decodeEvent : Instr.nop ∈ decodeEvent w ↔ nopRow.selects w.ev = true := by
  simp [mem_decodeEvent, mem_decodeSession, mem_decodeTick, mem_decodeLoad]

theorem step_notMem_decodeEvent : Instr.step ∉ decodeEvent w := by
  simp [mem_decodeEvent, mem_decodeSession, mem_decodeTick, mem_decodeLoad]

theorem decodeEvent_of_reset (h : resetRow.selects w.ev = true) : decodeEvent w = [.reset] := if_pos h

end

/-- 30_encoding.md R60: (EV & mask) == match. -/
theorem OpcodeRow.selects_iff {r : OpcodeRow} {ev : EventVector} :
    r.selects ev = true ↔ ev &&& r.mask = r.pattern := beq_iff_eq

/-- Settles O17: each operation is in the decoded list exactly where its row selects it. -/
theorem selectionFollowsTheMasks : Obligations.SelectionFollowsTheMasks := by
  intro w
  refine ⟨?start, ?cancel, ?loadCnt, ?tick, ?reset, ?resetAlone, ?nop, step_notMem_decodeEvent⟩
  case start => exact fun a r => start_mem_decodeEvent.trans (and_congr_left' OpcodeRow.selects_iff)
  case cancel => exact fun a r => cancel_mem_decodeEvent.trans (and_congr_left' OpcodeRow.selects_iff)
  case loadCnt => exact fun v => loadCnt_mem_decodeEvent.trans (and_congr_left' OpcodeRow.selects_iff)
  case tick => exact fun r => tick_mem_decodeEvent.trans (and_congr_left' OpcodeRow.selects_iff)
  case reset => exact reset_mem_decodeEvent.trans OpcodeRow.selects_iff
  case resetAlone => exact fun h => decodeEvent_of_reset (OpcodeRow.selects_iff.2 h)
  case nop => exact nop_mem_decodeEvent.trans OpcodeRow.selects_iff

/-! ### Every combination -/

theorem getLsbD_five_eventVector (rst tick sv sn sr lv : Bool) :
    (State.eventVector rst tick sv sn sr lv).getLsbD 5 = rst :=
  (selects_eq_bits _).1.symm.trans (selects_eventVector rst tick sv sn sr lv).1

/-- Without reset, the fields of an event vector select their requests one by one, if there is any. -/
theorem decodeEvent_eventVector {tick sv sn sr lv : Bool} (hany : (tick || sv || lv) = true)
    (a v : Nat) (running : Bool) :
    decodeEvent ⟨State.eventVector false tick sv sn sr lv, a, v, running⟩ =
      (if sv then [if sn then Instr.cancel a sr else Instr.start a sr] else []) ++
      (if tick then [Instr.tick running] else []) ++ (if lv then [Instr.loadCnt v] else []) := by
  obtain ⟨hreset, hnop, hstart, hcancel, htick, hload, hrep⟩ :=
    selects_eventVector false tick sv sn sr lv
  have hnone : (!tick && !sv && !lv) = false := by
    rw [← Bool.not_or, ← Bool.not_or, hany, Bool.not_true]
  simp only [decodeEvent, decodeSession, decodeTick, decodeLoad, hreset, hnop, hstart, hcancel, htick,
    hload, hrep, Bool.not_false, Bool.true_and, hnone]
  cases sv <;> cases sn <;> rfl

/-- A request that may be absent, as a strobe with an operand. -/
theorem ite_isSome_eq_toList {α β : Type} (o : Option α) (f : α → β) (d : α) :
    (if o.isSome then [f (o.getD d)] else []) = (o.map f).toList := by
  cases o <;> rfl

/-- The event word for any combination of requests, by the fields of the start request. -/
theorem decodeEvent_requests {sv sn sr : Bool} {running : Option Bool} {load : Option Nat}
    (hany : (running.isSome || sv || load.isSome) = true) (a : Nat) :
    ∃ w : EventWord, w.ev.getLsbD 5 = false ∧ decodeEvent w =
      (if sv then [if sn then Instr.cancel a sr else Instr.start a sr] else []) ++
      (running.map Instr.tick).toList ++ (load.map Instr.loadCnt).toList := by
  refine ⟨⟨State.eventVector false running.isSome sv sn sr load.isSome, a, load.getD 0,
    running.getD false⟩, getLsbD_five_eventVector .., ?_⟩
  rw [decodeEvent_eventVector hany, ite_isSome_eq_toList, ite_isSome_eq_toList]

theorem exists_word_of_requests {session : Option Instr} {running : Option Bool} {load : Option Nat}
    (hs : ∀ i, session = some i → (∃ a r, i = .start a r) ∨ ∃ a r, i = .cancel a r)
    (hne : ¬ (session = none ∧ running = none ∧ load = none)) :
    ∃ w : EventWord, w.ev.getLsbD 5 = false ∧ decodeEvent w =
      session.toList ++ (running.map Instr.tick).toList ++ (load.map Instr.loadCnt).toList := by
  cases session with
  | none =>
    have hany : (running.isSome || false || load.isSome) = true := by
      cases running <;> cases load <;> simp_all
    exact decodeEvent_requests (sn := false) (sr := false) hany 0
  | some i =>
    have hany : (running.isSome || true || load.isSome) = true := by simp
    obtain ⟨a, r, rfl⟩ | ⟨a, r, rfl⟩ := hs i rfl
    · exact decodeEvent_requests (sn := false) (sr := r) hany a
    · exact decodeEvent_requests (sn := true) (sr := r) hany a

/-! ### Every event vector -/

/-- The parts of a cycle without reset stand in the order that well-formedness asks for. -/
theorem dropLoad_dropTick_dropSession_decode (w : EventWord) :
    dropLoad (dropTick (dropSession (decodeSession w ++ decodeTick w ++ decodeLoad w))) = [] := by
  unfold decodeSession decodeTick decodeLoad
  split_ifs <;> rfl

/-- Without RESET and without NOP something is requested. -/
theorem decode_ne_nil {w : EventWord} (hreset : ¬ resetRow.selects w.ev = true)
    (hnop : ¬ nopRow.selects w.ev = true) :
    decodeSession w ++ decodeTick w ++ decodeLoad w ≠ [] := by
  simp only [decodeSession, decodeTick, decodeLoad, selects_eq_bits] at *
  cases w.ev.getLsbD 2 <;> simp_all

theorem cycleWellFormed_decodeEvent (w : EventWord) : cycleWellFormed (decodeEvent w) = true := by
  unfold decodeEvent
  split
  · rfl
  next hreset =>
    split
    · rfl
    next hnop =>
      have hne := decode_ne_nil hreset hnop
      simp [cycleWellFormed, dropLoad_dropTick_dropSession_decode, -List.append_assoc, hne]

/-! ### Ignored fields -/

theorem decodeEvent_congr {w w' : EventWord}
    (hreset : resetRow.selects w.ev = resetRow.selects w'.ev)
    (hnop : nopRow.selects w.ev = nopRow.selects w'.ev)
    (hsession : decodeSession w = decodeSession w') (htick : decodeTick w = decodeTick w')
    (hload : decodeLoad w = decodeLoad w') : decodeEvent w = decodeEvent w' := by
  simp only [decodeEvent, hreset, hnop, hsession, htick, hload]

theorem decodeSession_congr {w w' : EventWord} (hrst : w.ev.getLsbD 5 = w'.ev.getLsbD 5)
    (hvalid : w.ev.getLsbD 3 = w'.ev.getLsbD 3)
    (hfields : w.ev.getLsbD 3 = true → w.ev.getLsbD 2 = w'.ev.getLsbD 2 ∧
      w.ev.getLsbD 1 = w'.ev.getLsbD 1 ∧ w.startAddr = w'.startAddr) :
    decodeSession w = decodeSession w' := by
  simp only [decodeSession, selects_eq_bits, evStartRepeat, ← hrst, ← hvalid]
  cases hv : w.ev.getLsbD 3 with
  | false => simp
  | true =>
    obtain ⟨hnull, hrepeat, haddr⟩ := hfields hv
    simp only [hnull, hrepeat, haddr]

theorem decodeLoad_congr {w w' : EventWord} (hrst : w.ev.getLsbD 5 = w'.ev.getLsbD 5)
    (hvalid : w.ev.getLsbD 0 = w'.ev.getLsbD 0)
    (hvalue : w.ev.getLsbD 0 = true → w.cntLoadValue = w'.cntLoadValue) :
    decodeLoad w = decodeLoad w' := by
  simp only [decodeLoad, selects_eq_bits, ← hrst, ← hvalid]
  cases hv : w.ev.getLsbD 0 with
  | false => simp
  | true => simp only [hvalue hv]

/-- Settles O18: the decoded list is well formed, every combination has an event word, and the
parts of the decoded list each depend on the fields of their own request. -/
theorem everyEventVectorIsLegal : Obligations.EveryEventVectorIsLegal := by
  refine ⟨cycleWellFormed_decodeEvent, fun _ _ _ hs hne => exists_word_of_requests hs hne, ?_⟩
  intro w w' hrst htick hstart hload hrunning hsession hvalue
  refine decodeEvent_congr ?_ ?_ (decodeSession_congr hrst hstart hsession) ?_
    (decodeLoad_congr hrst hload hvalue)
  · simp only [selects_eq_bits, hrst]
  · simp only [selects_eq_bits, hrst, htick, hstart, hload]
  · simp only [decodeTick, selects_eq_bits, hrst, htick, hrunning]

end Sys2Proof
end

section
/-! The classes of message bytes, the LUT, and the entries built from Morse sequences: the statements of
30_encoding.md on the alphabet. -/

namespace Sys2Proof.Machine

/-! ### Classes of bytes and the LUT -/

theorem classify_of_zero {c : Byte} (h : c.toNat = 0) : classify c = .terminator := if_pos h

theorem classify_of_letter {c : Byte} {i : Fin 26} (h : c.toNat = 0x41 + i.val) :
    classify c = .letter i := by
  unfold classify
  rw [if_neg (by omega), dif_pos (by omega)]
  congr
  omega

theorem classify_of_nonLetter {c : Byte} (h0 : c.toNat ≠ 0) (h : c.toNat < 0x41 ∨ 0x5A < c.toNat) :
    classify c = .nonLetter := by
  unfold classify
  rw [if_neg h0, dif_neg (by omega)]

theorem lut_of_letter {c : Byte} {i : Fin 26} (h : classify c = .letter i) : lut c = alphabet[i] := by
  simp [lut, h]

theorem lut_of_nonLetter {c : Byte} (h : classify c = .nonLetter) : lut c = defaultEntry := by
  simp [lut, h]

/-- Settles O51: the class of a byte by its range. -/
theorem bytesFallIntoThreeClasses : Obligations.BytesFallIntoThreeClasses := by
  intro c
  refine ⟨classify_of_zero, fun hlow hhigh => ?_, fun hlow hhigh => ?_, fun hlow => ?_⟩
  · exact ⟨⟨c.toNat - 0x41, by omega⟩, rfl, classify_of_letter (Nat.add_sub_of_le hlow).symm⟩
  · have hclass : classify c = .nonLetter := classify_of_nonLetter (by omega) (by omega)
    exact ⟨hclass, lut_of_nonLetter hclass⟩
  · have hclass : classify c = .nonLetter := classify_of_nonLetter (by omega) (by omega)
    exact ⟨hclass, lut_of_nonLetter hclass⟩

/-- Settles O52: the LUT answers by the class of the byte. -/
theorem lutMapsEveryByte : Obligations.LutMapsEveryByte := by
  intro c hc
  have h0 : c.toNat ≠ 0 := fun h => hc (BitVec.eq_of_toNat_eq h)
  exact ⟨fun i hi => lut_of_letter (classify_of_letter hi),
    fun hrange => lut_of_nonLetter (classify_of_nonLetter h0 hrange)⟩

/-! ### Slots packed into a code -/

theorem testBit_packSlots (bs : List Bool) (k : Nat) :
    (packSlots bs).testBit k = bs[k]?.getD false := by
  induction bs generalizing k with
  | nil => simp [packSlots]
  | cons b bs ih =>
    cases k with
    | zero => cases b <;> simp [packSlots, Nat.testBit_zero]
    | succ k =>
      have hdiv : (b.toNat + 2 * packSlots bs) / 2 = packSlots bs := by
        have := Bool.toNat_lt b
        omega
      simp [packSlots, Nat.testBit_succ, hdiv, ih]

theorem packSlots_lt (bs : List Bool) : packSlots bs < 2 ^ bs.length := by
  induction bs with
  | nil => simp [packSlots]
  | cons b bs ih =>
    have := Bool.toNat_lt b
    simp only [packSlots, List.length_cons, Nat.pow_succ]
    omega

/-! ### The slots of a letter -/

theorem elementSlots_eq_cons (e : Element) : ∃ on, elementSlots e = true :: on := by
  cases e <;> exact ⟨_, rfl⟩

theorem elementSlots_eq_append (e : Element) : ∃ on, elementSlots e = on ++ [true] := by
  cases e
  · exact ⟨[], rfl⟩
  · exact ⟨[true, true], rfl⟩

theorem letterSlots_cons_cons (e e' : Element) (es : List Element) :
    letterSlots (e :: e' :: es) = elementSlots e ++ [false] ++ letterSlots (e' :: es) := rfl

/-- A letter begins with an on slot. -/
theorem letterSlots_eq_cons {es : List Element} (h : es ≠ []) :
    ∃ rest, letterSlots es = true :: rest := by
  match es with
  | [e] =>
    obtain ⟨on, he⟩ := elementSlots_eq_cons e
    exact ⟨on ++ [false, false, false], by simp [letterSlots, he]⟩
  | e :: e' :: es =>
    obtain ⟨on, he⟩ := elementSlots_eq_cons e
    exact ⟨on ++ [false] ++ letterSlots (e' :: es), by simp [letterSlots_cons_cons, he]⟩

/-- A letter ends with an on slot and three off slots. -/
theorem letterSlots_eq_append {es : List Element} (h : es ≠ []) :
    ∃ on, letterSlots es = on ++ [true] ++ [false, false, false] := by
  match es with
  | [e] =>
    obtain ⟨on, he⟩ := elementSlots_eq_append e
    exact ⟨on, by simp [letterSlots, he]⟩
  | e :: e' :: es =>
    obtain ⟨on, hon⟩ := letterSlots_eq_append (List.cons_ne_nil e' es)
    exact ⟨elementSlots e ++ [false] ++ on, by simp [letterSlots_cons_cons, hon]⟩

/-! ### The entry built from a Morse sequence that fits a code -/

section
variable {es : List Element} (hlen : (letterSlots es).length ≤ 16)
include hlen

theorem buildEntry_bits : (buildEntry es).bits.toNat = (letterSlots es).length := by
  simp only [buildEntry, BitVec.toNat_ofNat]
  omega

theorem buildEntry_code_toNat : (buildEntry es).code.toNat = packSlots (letterSlots es) := by
  have hle : 2 ^ (letterSlots es).length ≤ 2 ^ 16 := Nat.pow_le_pow_right (by decide) hlen
  exact Nat.mod_eq_of_lt (Nat.lt_of_lt_of_le (packSlots_lt _) hle)

theorem buildEntry_code_getLsbD (k : Nat) :
    (buildEntry es).code.getLsbD k = (letterSlots es)[k]?.getD false := by
  rw [BitVec.getLsbD, buildEntry_code_toNat hlen, testBit_packSlots]

end

/-! ### The alphabet -/

/-- The table of 30_encoding.md R68 against the construction of R71. -/
theorem alphabet_eq_buildEntry : ∀ i : Fin 26, alphabet[i] = buildEntry morse[i] := by decide

theorem morse_ne_nil : ∀ i : Fin 26, morse[i] ≠ [] := by decide

theorem length_letterSlots_morse : ∀ i : Fin 26, (letterSlots morse[i]).length ≤ 16 := by decide

/-- Settles O53: the table is the one that R71 builds, and the slots of a built entry are those of its
Morse sequence, which begin with an on slot and end with three off slots. -/
theorem lettersAreBuiltFromTheirMorse : Obligations.LettersAreBuiltFromTheirMorse := by
  refine ⟨fun i => ⟨alphabet_eq_buildEntry i, ?_⟩, fun i k hk => ?_, fun i => ?_, by decide⟩
  all_goals
    have hlen := length_letterSlots_morse i
    rw [alphabet_eq_buildEntry]
  · obtain ⟨rest, hfirst⟩ := letterSlots_eq_cons (morse_ne_nil i)
    obtain ⟨on, hlast⟩ := letterSlots_eq_append (morse_ne_nil i)
    refine ⟨?_, ?_, ?_⟩
    · rw [buildEntry_code_toNat hlen, buildEntry_bits hlen]
      exact packSlots_lt _
    · rw [buildEntry_code_getLsbD hlen, hfirst]
      rfl
    · simp only [buildEntry_code_getLsbD hlen, buildEntry_bits hlen, hlast]
      simp
  · rw [buildEntry_code_getLsbD hlen, List.getElem?_eq_getElem hk, Option.getD_some]
  · exact (buildEntry_bits hlen).symm

end Sys2Proof.Machine
end

section
/-! SUPPORT. STEP at the end of a session and while idle, and TICK as an operation: ticks one after the
other, and a tick in the cycle of a START or CANCEL. -/

namespace Sys2Proof.Machine

namespace State

/-! ### STEP -/

/-- STEP while idle drives its strobes 0 and no more (40_morse_encoder.md R83). -/
theorem encoderNext_of_idle {s : State} (ha : s.active = false) : s.encoderNext = s.quietStep := by
  have h := encoderNext_cases s
  simp_all

/-- The terminator ends a message that does not repeat (40_morse_encoder.md R85). -/
theorem encoderNext_of_terminator {s : State} (ha : s.active = true) (hb : s.bits = 0)
    (hc : s.memRead s.cursor = 0) (hr : s.repeatFlag = false) :
    s.encoderNext = s.quietStep.usePortA.endSession := by
  have h := encoderNext_cases s
  simp_all

/-- A restart that finds 0x00 at BASE ends the message (40_morse_encoder.md R87). -/
theorem encoderNext_of_emptyRestart {s : State} (ha : s.active = true) (hb : s.bits = 0)
    (hr : s.repeatFlag = true) (hc : s.memRead s.cursor = 0) (hc' : s.memRead s.base = 0) :
    s.encoderNext = s.quietStep.usePortA.usePortB.endSession := by
  have h := encoderNext_cases s
  simp_all

theorem stepReady_of_idle {s : State} (h : s.active = false) : s.StepReady := by
  simp [StepReady, h]

end State

theorem exec_step_of_idle {s : State} (h : s.active = false) : exec .step s = .next s.quietStep :=
  (exec_step_of_ready (State.stepReady_of_idle h)).trans
    (congrArg Host.Outcome.next (State.encoderNext_of_idle h))

/-- In a load tick BITS is 0, so STEP completes. -/
theorem exec_step_of_bits_eq_zero {s : State} (h : s.bits = 0) : exec .step s = .next s.encoderNext :=
  exec_step_of_ready (State.stepReady_of_bits_eq_zero h)

/-! ### TICK -/

/-- TICK completes wherever STEP does (41_tick_scheduler.md R105). -/
theorem exec_tick_of_ready {s : State} (h : s.StepReady) (running : Bool) :
    exec (.tick running) s = .next (s.heartbeat running).countdown.encoderNext :=
  exec_step_of_ready (s := (s.heartbeat running).countdown) h

theorem exec_tick_of_idle {s : State} (h : s.active = false) (running : Bool) :
    exec (.tick running) s = .next (s.heartbeat running).countdown.quietStep := by
  rw [exec_tick_of_ready (State.stepReady_of_idle h)]
  exact congrArg _ (State.encoderNext_of_idle h)

/-- Ticks while idle complete, stay idle, make no step write and leave FAULT_LED
(40_morse_encoder.md R83, R94). -/
theorem runOps_ticks_of_idle (rs : List Bool) {s : State} (ha : s.active = false)
    (hw : s.wires.faultWe = false) :
    ∃ u, runOps (rs.map Instr.tick) s = .next u ∧
      u.wires.faultWe = false ∧ u.active = false ∧ u.faultLed = s.faultLed := by
  induction rs generalizing s with
  | nil => exact ⟨s, rfl, hw, ha, rfl⟩
  | cons r rs ih =>
    rw [List.map_cons, runOps_cons_next (exec_tick_of_idle ha r)]
    exact ih (s := (s.heartbeat r).countdown.quietStep) ha rfl

/-- A tick in the cycle of a START or CANCEL sees BITS = 0, so it completes from every state. -/
theorem runOps_start_tick (a : Nat) (r running : Bool) (s : State) :
    runOps [.start a r, .tick running] s =
      .next ((s.replaceSession false a r).heartbeat running).countdown.encoderNext := by
  rw [runOps_cons_next (exec_start a r s), runOps_singleton]
  exact exec_tick_of_ready (State.stepReady_of_bits_eq_zero rfl) running

theorem runOps_cancel_tick (a : Nat) (r running : Bool) (s : State) :
    runOps [.cancel a r, .tick running] s =
      .next ((s.replaceSession true a r).heartbeat running).countdown.quietStep := by
  rw [runOps_cons_next (exec_cancel a r s), runOps_singleton]
  exact exec_tick_of_idle (s.replaceSession_active true a r) running

end Sys2Proof.Machine
end

section
/-! SUPPORT. STEP against the one evaluation of 41_tick_scheduler.md R110, as an operation and as part of
a cycle. -/

namespace Sys2Proof.Machine

namespace Reference

/-! ### The reference's STEP -/

section
variable {b : Build} {read : Nat → Byte} {v : Session}

theorem stepFn_of_idle (ha : v.active = false) :
    stepFn b read v =
      { session := v, faultWe := false, faultBit := false, memAEn := false, memBEn := false } := by
  simp [stepFn, ha]

theorem stepFn_of_terminates (ha : v.active = true) (ht : terminates read v = true) :
    stepFn b read v =
      { session := { v with active := false }, faultWe := false, faultBit := false,
        memAEn := true, memBEn := v.repeatFlag } := by
  simp [stepFn, ha, ht]

theorem stepFn_of_emits (ha : v.active = true) (ht : terminates read v = false) :
    stepFn b read v =
      { session := { v with
          cursor := cursorAfter b read v
          code := (current read v).code >>> 1
          bits := (current read v).bits - 1 }
        faultWe := true
        faultBit := (current read v).code.getLsbD 0
        memAEn := v.bits == 0
        memBEn := restarts read v } := by
  simp [stepFn, ha, ht]

/-- STEP writes exactly where an active session does not end (40_morse_encoder.md R83 to R88). -/
theorem stepFn_faultWe :
    (stepFn b read v).faultWe = true ↔ v.active = true ∧ terminates read v = false := by
  cases ha : v.active with
  | false => simp [stepFn_of_idle ha]
  | true =>
    cases ht : terminates read v with
    | false => simp [stepFn_of_emits ha ht]
    | true => simp [stepFn_of_terminates ha ht]

/-- Without a step write `fault_bit` is 0 (40_morse_encoder.md R82). -/
theorem stepFn_faultBit_of_silent (h : (stepFn b read v).faultWe = false) :
    (stepFn b read v).faultBit = false := by
  cases ha : v.active with
  | false => rw [stepFn_of_idle ha]
  | true =>
    cases ht : terminates read v with
    | false => simp [stepFn_of_emits ha ht] at h
    | true => rw [stepFn_of_terminates ha ht]

end

/-- There is a slot to emit: an entry of the LUT has 4 at least, and BITS is not 0 inside a letter. -/
theorem one_le_current_bits (read : Nat → Byte) (v : Session) : 1 ≤ (current read v).bits.toNat := by
  unfold current
  split
  next =>
    have hlut := (lut_sound (read (if restarts read v then v.base else v.cursor))).1
    omega
  next hb =>
    have hne : v.bits ≠ 0 := by simpa using hb
    exact Nat.pos_of_ne_zero fun h => hne (BitVec.eq_of_toNat_eq h)

/-! ### STEP as an operation -/

/-- The session of a state and the strobes its last STEP drove, in the reference's form. -/
def result (s : State) : StepResult :=
  { session := session s, faultWe := s.wires.faultWe, faultBit := s.wires.faultBit,
    memAEn := s.wires.memAEn, memBEn := s.wires.memBEn }

/-- STEP as an operation and the reference's STEP give one session and one set of strobes. -/
theorem result_encoderNext (s : State) :
    result s.encoderNext = stepFn s.build s.memRead (session s) := by
  rcases State.encoderNext_cases s with ⟨ha, h⟩ | ⟨ha, hb, h⟩ | ⟨ha, hb, hc, h⟩ |
    ⟨ha, hb, hc, hr, h⟩ | ⟨ha, hb, hc, hr, hc', h⟩ | ⟨ha, hb, hc, hr, hc', h⟩ <;> rw [h]
  · rw [stepFn_of_idle ha]
    rfl
  · rw [stepFn_of_emits ha (by simp_all [terminates, session])]
    simp_all [result, session, restarts, current, cursorAfter]
  · rw [stepFn_of_emits ha (by simp_all [terminates, session])]
    simp_all [result, session, restarts, current, cursorAfter]
  · rw [stepFn_of_terminates ha (by simp [terminates, session, hb, hc, hr])]
    simp [result, session, hr]
  · rw [stepFn_of_emits ha (by simp_all [terminates, session])]
    simp_all [result, session, restarts, current, cursorAfter]
  · rw [stepFn_of_terminates ha (by simp [terminates, session, hb, hc, hc'])]
    simp [result, session, hr]

end Reference

namespace State

/-- FAULT_LED after STEP is the mux's choice between the step write and the held value
(41_tick_scheduler.md R106). -/
theorem encoderNext_faultLed (s : State) :
    s.encoderNext.faultLed =
      outputMux s.encoderNext.wires.faultWe s.encoderNext.wires.faultBit false s.faultLed := by
  rcases encoderNext_cases s with ⟨ha, h⟩ | ⟨ha, hb, h⟩ | ⟨ha, hb, hc, h⟩ | ⟨ha, hb, hc, hr, h⟩ |
    ⟨ha, hb, hc, hr, hc', h⟩ | ⟨ha, hb, hc, hr, hc', h⟩ <;> simp [h, outputMux]

/-! ### STEP in a cycle -/

@[simp] theorem startStage_build (s : State) : s.startStage.build = s.build := by
  unfold startStage
  split <;> rfl

/-- Before the tick the mux has the start request's 0 or the held value (41_tick_scheduler.md R106). -/
theorem startStage_faultLed (s : State) :
    s.startStage.faultLed = outputMux false false s.currentInput.startValid s.faultLed := by
  unfold startStage
  cases s.currentInput.startValid <;> rfl

/-- The tick stage of a cycle leaves the session and the strobes of the reference's STEP
(41_tick_scheduler.md R110, part 3). -/
theorem result_tickStage (s : State) : Reference.result s.tickStage = Reference.stepOf s := by
  unfold tickStage Reference.stepOf
  rw [← session_startStage]
  cases s.tickNow with
  | false => simp [Reference.result, Wires.zero]
  | true =>
    have hstep := Reference.result_encoderNext (s.startStage.heartbeat s.currentInput.running).countdown
    have hread : (s.startStage.heartbeat s.currentInput.running).countdown.memRead = s.memRead := by
      funext a
      simp [memRead]
    rw [hread, countdown_build, heartbeat_build, startStage_build] at hstep
    exact hstep

/-- The mux over a whole cycle (41_tick_scheduler.md R106). -/
theorem tickStage_faultLed (s : State) :
    s.tickStage.faultLed = outputMux s.tickStage.wires.faultWe s.tickStage.wires.faultBit
      s.currentInput.startValid s.faultLed := by
  unfold tickStage
  split
  · rw [encoderNext_faultLed, countdown_faultLed, heartbeat_faultLed, startStage_faultLed]
    cases (s.startStage.heartbeat s.currentInput.running).countdown.encoderNext.wires.faultWe <;> rfl
  · simp [startStage_faultLed, Wires.zero]

/-- A counter load and the end of a cycle leave what STEP made of the session, and the mux's choice. -/
theorem loadStage_frame (s : State) :
    Reference.result s.loadStage = Reference.result s.tickStage ∧
      s.loadStage.faultLed = s.tickStage.faultLed := by
  unfold loadStage
  split <;> exact ⟨rfl, rfl⟩

end State

/-- A tick excludes a reset (41_tick_scheduler.md R100). -/
theorem rst_eq_false_of_tickNow {s : State} (h : s.tickNow = true) : s.currentInput.rst = false :=
  Bool.eq_false_iff.2 fun hrst => by simp [tickNow_of_rst hrst] at h

/-- A cycle without reset leaves the session, the strobes and the indicator of 41_tick_scheduler.md
R110. -/
theorem step_result {s t : State} (hr : s.currentInput.rst = false) (h : step s = .next t) :
    Reference.result t = Reference.stepOf s ∧
      t.faultLed = outputMux (Reference.stepOf s).faultWe (Reference.stepOf s).faultBit
        s.currentInput.startValid s.faultLed := by
  obtain ⟨-, -, rfl⟩ := (step_eq_next_of_not_rst hr).1 h
  obtain ⟨hres, hled⟩ := s.loadStage_frame
  refine ⟨hres.trans s.result_tickStage, hled.trans ?_⟩
  rw [← s.result_tickStage]
  exact s.tickStage_faultLed

/-- In every cycle, also a reset cycle, the strobes are those of the reference's STEP. -/
theorem step_faultStrobes {s t : State} (h : step s = .next t) :
    t.wires.faultWe = (Reference.stepOf s).faultWe ∧
      t.wires.faultBit = (Reference.stepOf s).faultBit := by
  rw [step_wires h, ← s.result_tickStage]
  exact ⟨rfl, rfl⟩

namespace Reference

/-! ### What the reference's STEP does in a cycle -/

/-- The cycle's STEP writes: there is a tick, and it sees an active session that it does not end. -/
theorem stepOf_faultWe (s : State) :
    (stepOf s).faultWe = true ↔
      s.tickNow = true ∧ (seen s).active = true ∧ terminates s.memRead (seen s) = false := by
  unfold stepOf
  cases s.tickNow with
  | false => simp
  | true => simpa using stepFn_faultWe

theorem stepOf_faultBit_of_silent {s : State} (h : (stepOf s).faultWe = false) :
    (stepOf s).faultBit = false := by
  unfold stepOf at h ⊢
  cases ht : s.tickNow with
  | false => simp
  | true => simpa [ht] using stepFn_faultBit_of_silent (by simpa [ht] using h)

/-- The cycle's STEP emits slot 0 of its code, shifts and counts (40_morse_encoder.md R88). -/
theorem stepOf_of_faultWe {s : State} (h : (stepOf s).faultWe = true) :
    (stepOf s).faultBit = (current s.memRead (seen s)).code.getLsbD 0 ∧
      (stepOf s).session.code = (current s.memRead (seen s)).code >>> 1 ∧
      (stepOf s).session.bits = (current s.memRead (seen s)).bits - 1 := by
  obtain ⟨htick, hactive, hgoes⟩ := (stepOf_faultWe s).1 h
  simp [stepOf, htick, stepFn_of_emits hactive hgoes]

end Reference

end Sys2Proof.Machine
end

section
/-! The statements of 40_morse_encoder.md on the operations of the encoder, and on its step writes. -/

namespace Sys2Proof.Machine

open State

/-! ### START and CANCEL -/

/-- Settles O1: the tick of a START's own cycle is a load tick at the new BASE, which is CURSOR too, so an
empty message ends there whether it repeats or not. -/
theorem startBeginsANewSession : Obligations.StartBeginsANewSession := by
  refine ⟨fun _ _ _ => rfl, fun w hw => ?encoded, fun a r running s hc => ?empty,
    fun a r running s hc => ?message⟩
  case encoded => exact start_mem_decodeEvent.2 ⟨OpcodeRow.selects_iff.2 hw, rfl, rfl⟩
  case empty =>
    refine ⟨_, runOps_start_tick a r running s, ?_⟩
    cases r with
    | false => rw [encoderNext_of_terminator rfl rfl hc rfl]; exact ⟨rfl, rfl, rfl⟩
    | true => rw [encoderNext_of_emptyRestart rfl rfl rfl hc hc]; exact ⟨rfl, rfl, rfl⟩
  case message =>
    refine ⟨_, runOps_start_tick a r running s, ?_⟩
    rw [encoderNext_of_character rfl rfl hc]
    exact ⟨rfl, rfl, rfl, rfl, rfl, rfl, rfl⟩

/-- Settles O2: the tick of a CANCEL's own cycle is idle. -/
theorem cancelEndsAnySession : Obligations.CancelEndsAnySession := by
  refine ⟨fun _ _ _ => rfl, fun w hw => ?encoded, fun a r running s => ?tick⟩
  case encoded => exact cancel_mem_decodeEvent.2 ⟨OpcodeRow.selects_iff.2 hw, rfl, rfl⟩
  case tick => exact ⟨_, runOps_cancel_tick a r running s, rfl, rfl, rfl, rfl⟩

/-! ### STEP -/

/-- Settles O3. -/
theorem idleStepHasNoEffect : Obligations.IdleStepHasNoEffect := fun _ ha => exec_step_of_idle ha

/-- Settles O4: STEP uses port A in a load tick, and there consumes a character. -/
theorem loadTickConsumesACharacter : Obligations.LoadTickConsumesACharacter := by
  refine ⟨fun s ha hb => ?portA, fun s ha hb hc => ?consumed⟩
  case portA => exact ⟨_, exec_step_of_bits_eq_zero hb, s.encoderNext_memAEn.2 ⟨ha, hb⟩⟩
  case consumed =>
    rw [exec_step_of_bits_eq_zero hb, encoderNext_of_character ha hb hc]
    rfl

/-- Settles O5: STEP leaves an idle state without a step write, and ticks keep to that. -/
theorem terminatorEndsANonRepeatingSession : Obligations.TerminatorEndsANonRepeatingSession := by
  intro s ha hb hc hr
  refine ⟨_, exec_step_of_bits_eq_zero hb, ?_⟩
  rw [encoderNext_of_terminator ha hb hc hr]
  exact ⟨rfl, fun rs => runOps_ticks_of_idle rs rfl rfl⟩

/-- Settles O6: STEP uses port B at the terminator of a message that repeats, and there consumes the
character at BASE. -/
theorem terminatorRestartsARepeatingSession : Obligations.TerminatorRestartsARepeatingSession := by
  refine ⟨fun s ha hb hc hr => ?portB, fun s ha hb hc hr hc' => ?consumed⟩
  case portB => exact ⟨_, exec_step_of_bits_eq_zero hb, s.encoderNext_memBEn.2 ⟨ha, hb, hc, hr⟩⟩
  case consumed =>
    rw [exec_step_of_bits_eq_zero hb, encoderNext_of_restart ha hb hr hc hc']
    rfl

/-- Settles O7: a restart that finds 0x00 at BASE only ends the session. -/
theorem emptyRestartEndsTheSession : Obligations.EmptyRestartEndsTheSession := by
  intro s ha hb hc hr hc'
  rw [exec_step_of_bits_eq_zero hb, encoderNext_of_emptyRestart ha hb hr hc hc']
  rfl

/-! ### Step writes -/

/-- Settles O40: the strobes of a cycle are the reference's, and a step write excludes a reset, so the
registers are the reference's too. -/
theorem stepWritesExactlyWhereASessionEmits : Obligations.StepWritesExactlyWhereASessionEmits := by
  intro s t h
  obtain ⟨hwe, hbit⟩ := step_faultStrobes h
  rw [hwe, hbit]
  refine ⟨Reference.stepOf_faultWe s, Reference.stepOf_faultBit_of_silent, fun hwrite => ?_⟩
  have hr := rst_eq_false_of_tickNow ((Reference.stepOf_faultWe s).1 hwrite).1
  obtain ⟨hslot, hcode, hbits⟩ := Reference.stepOf_of_faultWe hwrite
  obtain ⟨hres, hled⟩ := step_result hr h
  have hpos := Reference.one_le_current_bits s.memRead (Reference.seen s)
  rw [← hres] at hcode hbits
  refine ⟨hslot, ?_, hcode, hpos, ?_⟩
  · simpa [hwrite, outputMux, hslot] using hled
  · change t.bits = _ at hbits
    bv_omega

end Sys2Proof.Machine
end

section
/-! SUPPORT. A cycle as one evaluation: STEP and the stages of a cycle as whole-state updates, and `step`
against the next-state function of 41_tick_scheduler.md R110. -/

namespace Sys2Proof.Machine

namespace State

/-! ### STEP as one update -/

/-- A state with the session and the strobes of a STEP, and the mux's choice between its write and the
held FAULT_LED (41_tick_scheduler.md R106). `encoderNext_eq_withStep` ties it to STEP. -/
def withStep (s : State) (r : Reference.StepResult) : State :=
  { s with
    active := r.session.active
    base := r.session.base
    cursor := r.session.cursor
    repeatFlag := r.session.repeatFlag
    code := r.session.code
    bits := r.session.bits
    faultLed := outputMux r.faultWe r.faultBit false s.faultLed
    wires := { s.wires with
      faultWe := r.faultWe, faultBit := r.faultBit, memAEn := r.memAEn, memBEn := r.memBEn } }

theorem withStep_result_encoderNext (s : State) :
    s.withStep (Reference.result s.encoderNext) = s.encoderNext := by
  rcases encoderNext_cases s with ⟨_, h⟩ | ⟨_, _, h⟩ | ⟨_, _, _, h⟩ | ⟨_, _, _, _, h⟩ |
    ⟨_, _, _, _, _, h⟩ | ⟨_, _, _, _, _, h⟩ <;> rw [h] <;> rfl

/-- STEP changes a state by the reference's STEP and in no other way. -/
theorem encoderNext_eq_withStep (s : State) :
    s.encoderNext = s.withStep (Reference.stepFn s.build s.memRead (Reference.session s)) := by
  rw [← Reference.result_encoderNext, withStep_result_encoderNext]

/-- The timer duties and STEP do not read what the other writes (41_tick_scheduler.md R105). -/
theorem encoderNext_countdown_heartbeat (s : State) (running : Bool) :
    (s.heartbeat running).countdown.encoderNext =
      { s.encoderNext with
        hbLed := heartbeatNext running s.hbLed
        cnt := countdownNext s.cnt } := by
  rw [encoderNext_eq_withStep, s.encoderNext_eq_withStep]
  rfl

/-- STEP leaves a BITS that has a meaning (10_state.md R37). -/
theorem encoderNext_stepReady {s : State} (hs : s.StepReady) : s.encoderNext.StepReady := by
  have hlut : ∀ c, ((lut c).bits - 1).toNat ≤ 16 := fun c => by
    obtain ⟨hge, hle, -⟩ := lut_sound c
    bv_omega
  rcases encoderNext_cases s with ⟨ha, h⟩ | ⟨ha, hb, h⟩ | ⟨ha, hb, hc, h⟩ | ⟨ha, hb, hc, hr, h⟩ |
    ⟨ha, hb, hc, hr, hc', h⟩ | ⟨ha, hb, hc, hr, hc', h⟩ <;> rw [h]
  · exact stepReady_of_idle ha
  · have hle := hs ha
    intro _
    change (s.bits - 1).toNat ≤ 16
    bv_omega
  · exact fun _ => hlut _
  · exact stepReady_of_idle rfl
  · exact fun _ => hlut _
  · exact stepReady_of_idle rfl

/-! ### The stages of a cycle as one update -/

/-- Where nothing is written, the update by a state's own session and strobes is none. -/
theorem withStep_result_self {s : State} (h : s.wires.faultWe = false) :
    s.withStep (Reference.result s) = s := by
  have hled : outputMux s.wires.faultWe s.wires.faultBit false s.faultLed = s.faultLed := by
    rw [h]
    rfl
  change { s with faultLed := outputMux s.wires.faultWe s.wires.faultBit false s.faultLed } = s
  rw [hled]

/-- R110, part 2, as one update: the session that STEP sees, and the mux without a step write. -/
theorem startStage_eq (s : State) :
    s.startStage = { s.openCycle with
      active := (Reference.seen s).active
      base := (Reference.seen s).base
      cursor := (Reference.seen s).cursor
      repeatFlag := (Reference.seen s).repeatFlag
      code := (Reference.seen s).code
      bits := (Reference.seen s).bits
      faultLed := outputMux false false s.currentInput.startValid s.faultLed } := by
  rw [← session_startStage, ← startStage_faultLed]
  unfold startStage
  cases s.currentInput.startValid <;> rfl

/-- The timer duties of a tick, if there is one, as one update. -/
theorem ite_countdown_heartbeat (tick running : Bool) (s : State) :
    (if tick then (s.heartbeat running).countdown else s) =
      { s with
        hbLed := if tick then heartbeatNext running s.hbLed else s.hbLed
        cnt := if tick then countdownNext s.cnt else s.cnt } := by
  cases tick <;> rfl

/-- A counter load, if there is one, as one update. -/
theorem ite_setCnt (load : Bool) (v : Nat) (s : State) :
    (if load then s.setCnt v else s) = { s with cnt := if load then v else s.cnt } := by
  cases load <;> rfl

/-- R110, part 3: the timer duties where there is a tick, and the cycle's STEP. -/
theorem tickStage_eq_withStep (s : State) :
    s.tickStage = (if s.tickNow then (s.startStage.heartbeat s.currentInput.running).countdown
      else s.startStage).withStep (Reference.stepOf s) := by
  rw [← result_tickStage]
  unfold tickStage
  cases s.tickNow with
  | false => exact (withStep_result_self (by simp [Wires.zero])).symm
  | true => exact (withStep_result_encoderNext _).symm

/-- The stages of a cycle without reset are one evaluation (41_tick_scheduler.md R110). -/
theorem closeCycle_loadStage (s : State) :
    s.loadStage.closeCycle s.currentInput.memWrites = Reference.running s := by
  rw [loadStage, ite_setCnt, tickStage_eq_withStep, ite_countdown_heartbeat, startStage_eq]
  rfl

/-- The BITS that STEP would use is that of the session of R110, part 2. -/
theorem startStage_bitsOutsideModel {s : State} : s.startStage.bitsOutsideModel = false ↔
    ((Reference.seen s).active = true → (Reference.seen s).bits.toNat ≤ 16) := by
  rw [← session_startStage]
  exact bitsOutsideModel_eq_false

end State

/-- A reset cycle is R110's. -/
theorem step_of_rst_eq_resetting {s : State} (hr : s.currentInput.rst = true) :
    step s = .next (Reference.resetting s) := by
  rw [step_of_rst hr, Reference.resetting]
  rfl

/-- A cycle's next state, where it has one, is R110's. -/
theorem eq_cycle_of_step {s t : State} (h : step s = .next t) : t = Reference.cycle s := by
  unfold Reference.cycle
  cases hr : s.currentInput.rst with
  | false =>
    obtain ⟨-, -, rfl⟩ := (step_eq_next_of_not_rst hr).1 h
    exact s.closeCycle_loadStage
  | true =>
    rw [step_of_rst_eq_resetting hr] at h
    cases h
    rfl

theorem eq_running_of_step {s t : State} (hr : s.currentInput.rst = false) (h : step s = .next t) :
    t = Reference.running s := by
  rw [eq_cycle_of_step h, Reference.cycle, hr]
  rfl

/-- Where PSC and the BITS that the cycle uses have a meaning, the cycle completes as R110's. -/
theorem step_eq_cycle {s : State} (hpsc : s.pscOutsideModel = false)
    (hbits : s.tickNow = true → (Reference.seen s).active = true →
      (Reference.seen s).bits.toNat ≤ 16) :
    step s = .next (Reference.cycle s) := by
  cases hr : s.currentInput.rst with
  | false =>
    have h := (step_eq_next_of_not_rst hr).2
      ⟨hpsc, fun ht => State.startStage_bitsOutsideModel.2 (hbits ht), rfl⟩
    rw [h, eq_cycle_of_step h]
  | true => rw [step_of_rst_eq_resetting hr, Reference.cycle, if_pos hr]

/-! ### The scheduler's registers after a cycle -/

/-- In every cycle, also a reset cycle, the `tick` output is the prescaler's strobe. -/
theorem step_tick {s t : State} (h : step s = .next t) : t.wires.tick = s.tickNow := by
  rw [eq_cycle_of_step h, Reference.cycle]
  cases hr : s.currentInput.rst with
  | false => rfl
  | true => exact (tickNow_of_rst hr).symm

section
variable {s t : State} (hr : s.currentInput.rst = false) (h : step s = .next t)
include hr h

theorem step_psc :
    t.psc = prescalerNext s.build.prescaleN s.psc s.currentInput.rst s.currentInput.clkEn := by
  rw [eq_running_of_step hr h, Reference.running]

theorem step_hbLed :
    t.hbLed = if s.tickNow then heartbeatNext s.currentInput.running s.hbLed else s.hbLed := by
  rw [eq_running_of_step hr h, Reference.running]

theorem step_cnt :
    t.cnt = if s.currentInput.cntLoadValid then fitCount s.build s.currentInput.cntLoadValue
      else if s.tickNow then countdownNext s.cnt else s.cnt := by
  rw [eq_running_of_step hr h, Reference.running]

theorem step_faultLed :
    t.faultLed =
      outputMux t.wires.faultWe t.wires.faultBit s.currentInput.startValid s.faultLed := by
  rw [eq_running_of_step hr h, Reference.running]

end

/-- Without a tick the prescaler counts or holds (41_tick_scheduler.md R100, R101). -/
theorem prescalerNext_of_no_tick {s : State} (hr : s.currentInput.rst = false)
    (ht : s.tickNow = false) :
    prescalerNext s.build.prescaleN s.psc s.currentInput.rst s.currentInput.clkEn =
      if s.currentInput.clkEn then s.psc + 1 else s.psc := by
  rw [State.tickNow, prescalerTick, hr] at ht
  rw [prescalerNext, hr]
  cases hen : s.currentInput.clkEn with
  | false => rfl
  | true =>
    have hp : (s.psc == s.build.prescaleN - 1) = false := by simpa [hen] using ht
    simp [hp]

end Sys2Proof.Machine
end

section
/-! The statements of 41_tick_scheduler.md on TICK, LOAD_CNT and the duties of a cycle. -/

namespace Sys2Proof.Machine

open State

/-! ### TICK and LOAD_CNT as operations -/

theorem length_decodeTick_le (w : EventWord) : (decodeTick w).length ≤ 1 := by
  unfold decodeTick
  split
  · exact Nat.le_refl 1
  · exact Nat.zero_le 1

/-- An event word selects at most one TICK: only its tick field selects one. -/
theorem length_filter_tick_decodeEvent (w : EventWord) :
    ((decodeEvent w).filter fun i => i matches .tick _).length ≤ 1 := by
  have hsession : (decodeSession w).filter (fun i => i matches .tick _) = [] :=
    List.filter_eq_nil_iff.2 fun i hi => by
      obtain ⟨-, rfl⟩ | ⟨-, rfl⟩ := mem_decodeSession.1 hi <;> simp
  have hload : (decodeLoad w).filter (fun i => i matches .tick _) = [] :=
    List.filter_eq_nil_iff.2 fun i hi => by
      obtain ⟨-, rfl⟩ := mem_decodeLoad.1 hi
      simp
  unfold decodeEvent
  split_ifs
  · exact Nat.zero_le 1
  · exact Nat.zero_le 1
  · rw [List.filter_append, List.filter_append, hsession, hload, List.nil_append, List.append_nil]
    exact (List.length_filter_le _ _).trans (length_decodeTick_le w)

/-- Settles O10: TICK is STEP after the two timer duties, and STEP is indifferent to them. -/
theorem tickRunsItsThreeDuties : Obligations.TickRunsItsThreeDuties := by
  refine ⟨fun running s hs => ?duties, fun w hw => ?encoded, length_filter_tick_decodeEvent⟩
  case duties =>
    refine ⟨_, exec_step_of_ready hs, ?_⟩
    rw [exec_tick_of_ready hs, encoderNext_countdown_heartbeat]
    rfl
  case encoded => exact tick_mem_decodeEvent.2 ⟨OpcodeRow.selects_iff.2 hw, rfl⟩

theorem countdownNext_eq (n : Nat) : countdownNext n = n - 1 := by
  unfold countdownNext
  split <;> omega

/-- Ticks one after the other complete, and each takes one off a countdown that stops at 0
(41_tick_scheduler.md R103). -/
theorem runOps_ticks_cnt (rs : List Bool) {s : State} (hs : s.StepReady) :
    ∃ t, runOps (rs.map Instr.tick) s = .next t ∧ t.cnt = s.cnt - rs.length := by
  induction rs generalizing s with
  | nil => exact ⟨s, rfl, rfl⟩
  | cons r rs ih =>
    rw [List.map_cons, runOps_cons_next (exec_tick_of_ready hs r), encoderNext_countdown_heartbeat]
    obtain ⟨t, hrun, hcnt⟩ := ih (s := { s.encoderNext with
      hbLed := heartbeatNext r s.hbLed, cnt := countdownNext s.cnt }) (encoderNext_stepReady hs)
    refine ⟨t, hrun, hcnt.trans ?_⟩
    rw [List.length_cons, countdownNext_eq]
    exact Nat.sub_right_comm s.cnt 1 rs.length

/-- Settles O11: a load leaves the session as it was, so the ticks after it complete. -/
theorem loadCntReplacesTheCounter : Obligations.LoadCntReplacesTheCounter := by
  refine ⟨fun _ _ => rfl, fun w hw => ?encoded, fun running v s hs => ?tickCycle,
    fun v rs s hs => ?ticks⟩
  case encoded => exact loadCnt_mem_decodeEvent.2 ⟨OpcodeRow.selects_iff.2 hw, rfl⟩
  case tickCycle =>
    have htick := exec_tick_of_ready hs running
    refine ⟨_, _, htick, ?_, rfl⟩
    rw [runOps_cons_next htick, runOps_singleton]
    rfl
  case ticks =>
    rw [runOps_cons_next (exec_loadCnt v s)]
    exact runOps_ticks_cnt rs (s := s.setCnt v) hs

/-! ### Cycles -/

/-- Settles O23: the stages of a cycle, each as one update, make up R110's evaluation. -/
theorem stepIsTheNextStateFunction : Obligations.StepIsTheNextStateFunction :=
  fun _ => step_eq_cycle

/-- Settles O32: PSC and `tick` are the prescaler's. -/
theorem prescalerMakesTheTick : Obligations.PrescalerMakesTheTick := by
  intro s t h
  rw [step_tick h]
  refine ⟨fun hr hen => ?enabled, fun hoff => ?disabled⟩
  case enabled =>
    rw [step_psc hr h]
    refine ⟨fun hp => ?_, fun hp => ?_⟩ <;>
      simp [tickNow, prescalerTick, prescalerNext, hr, hen, hp]
  case disabled =>
    obtain hr | hen := hoff
    · exact tickNow_of_rst hr
    · simp [tickNow, prescalerTick, hen]

/-- Settles O34: HB_LED is the heartbeat duty's where there is a tick, and else the old one. -/
theorem heartbeatTogglesWhileRunning : Obligations.HeartbeatTogglesWhileRunning := by
  intro s t hr h
  rw [step_tick h, step_hbLed hr h]
  refine ⟨fun ht hrun => ?toggled, fun ht hrun => ?stopped, fun ht => ?noTick⟩
  case toggled => rw [ht, hrun]; rfl
  case stopped => rw [ht, hrun]; rfl
  case noTick => rw [ht]; rfl

/-- Settles O35: CNT is the load's value where there is a load, and else the countdown duty's or the old
one. -/
theorem countdownStopsAtZero : Obligations.CountdownStopsAtZero := by
  intro s t hr h
  rw [step_tick h, step_cnt hr h]
  refine ⟨fun hl ht hne => ?counts, fun hl ht hz => ?atZero, fun hl ht => ?noTick, fun hl => ?load⟩
  case counts => rw [hl, ht]; exact if_neg hne
  case atZero => rw [hl, ht]; exact if_pos hz
  case noTick => rw [hl, ht]; rfl
  case load => rw [hl]; rfl

/-- Settles O36: FAULT_LED is the mux's choice over the whole cycle. -/
theorem muxPrefersTheStepWrite : Obligations.MuxPrefersTheStepWrite := by
  intro s t hr h
  rw [step_faultLed hr h]
  refine ⟨fun hw => ?write, fun hw hs => ?start, fun hw hs => ?held⟩
  case write => rw [hw]; rfl
  case start => rw [hw, hs]; rfl
  case held => rw [hw, hs]; rfl

/-- Settles O26: without a tick nothing uses BITS, so the cycle completes, as R110's. -/
theorem nopCycleOnlyCounts : Obligations.NopCycleOnlyCounts := by
  intro s hr ht hs hl hpsc
  have hcount := prescalerNext_of_no_tick hr ht
  rw [step_eq_cycle hpsc (by simp [ht]), Reference.cycle, hr]
  simp [Reference.running, Reference.stepOf, Reference.seen, Reference.session, ht, hs, hl, outputMux,
    hcount]

end Sys2Proof.Machine
end

section
/-! The statement of 70_reset_and_hazards.md on a reset cycle. -/

namespace Sys2Proof.Machine

/-- Settles O25: in a reset cycle RESET alone runs, so its register clear and its strobe clear decide
every register and strobe, and closing the cycle adds the other agents' writes. -/
theorem resetCycleOverridesEveryInput : Obligations.ResetCycleOverridesEveryInput := by
  intro s hr
  refine ⟨s.openCycle.clearRegisters.quiet.closeCycle s.currentInput.memWrites, step_of_rst hr, ?_⟩
  simp

end Sys2Proof.Machine
end

section
/-! The byte form of an event word: the statements of 30_encoding.md on the encoder and the decoder. -/

namespace Sys2Proof

open Sys2Proof.Machine

/-! ### The lists of operations of a cycle -/

/-- START or CANCEL in a list of its own, or no request. -/
def sessionRequest (sv sn sr : Bool) (a : Nat) : List Instr :=
  if sv then [if sn then .cancel a sr else .start a sr] else []

/-- The operations of a cycle without reset, by the requests made in it (30_encoding.md R66).
`exists_requests_of_wellFormed` and `decodeEvent_encodeEvent_requests` tie it to the model. -/
def requests (sv sn sr : Bool) (a : Nat) (running : Option Bool) (load : Option Nat) : List Instr :=
  sessionRequest sv sn sr a ++ (running.map Instr.tick).toList ++ (load.map Instr.loadCnt).toList

theorem exists_sessionRequest_append (is : List Instr) :
    ∃ sv sn sr a, is = sessionRequest sv sn sr a ++ dropSession is := by
  unfold dropSession
  split
  next a r is => exact ⟨true, false, r, a, rfl⟩
  next a r is => exact ⟨true, true, r, a, rfl⟩
  next => exact ⟨false, false, false, 0, rfl⟩

theorem exists_tick_append (is : List Instr) :
    ∃ running : Option Bool, is = (running.map Instr.tick).toList ++ dropTick is := by
  unfold dropTick
  split
  next r is => exact ⟨some r, rfl⟩
  next => exact ⟨none, rfl⟩

theorem exists_loadCnt_append (is : List Instr) :
    ∃ load : Option Nat, is = (load.map Instr.loadCnt).toList ++ dropLoad is := by
  unfold dropLoad
  split
  next v is => exact ⟨some v, rfl⟩
  next => exact ⟨none, rfl⟩

/-- What a cycle can select: RESET alone, NOP alone, or at least one request. -/
theorem exists_requests_of_wellFormed {is : List Instr} (h : cycleWellFormed is = true) :
    is = [.reset] ∨ is = [.nop] ∨ is ≠ [] ∧ ∃ sv sn sr a running load,
      is = requests sv sn sr a running load := by
  obtain ⟨sv, sn, sr, a, hsession⟩ := exists_sessionRequest_append is
  obtain ⟨running, htick⟩ := exists_tick_append (dropSession is)
  obtain ⟨load, hload⟩ := exists_loadCnt_append (dropTick (dropSession is))
  simp only [cycleWellFormed, Bool.or_eq_true, Bool.and_eq_true, beq_iff_eq, List.isEmpty_iff,
    Bool.not_eq_true', List.isEmpty_eq_false_iff, or_assoc] at h
  refine h.imp_right (Or.imp_right fun ⟨hne, hnil⟩ => ⟨hne, sv, sn, sr, a, running, load, ?_⟩)
  rw [hnil, List.append_nil] at hload
  rw [requests, List.append_assoc, ← hload, ← htick, ← hsession]

/-! ### Decoding what the encoder gives -/

/-- The encoder sets the bits and the operands of each request, and leaves the others 0. -/
theorem encodeEvent_requests (sv sn sr : Bool) (a : Nat) (running : Option Bool)
    (load : Option Nat) :
    encodeEvent (requests sv sn sr a running load) =
      { ev := State.eventVector false running.isSome sv (sv && sn) (sv && sr) load.isSome
        startAddr := if sv then a else 0
        cntLoadValue := load.getD 0
        running := running.getD false } := by
  have hsession : (sessionRequest sv sn sr a).foldl addToWord idleWord =
      { ev := State.eventVector false false sv (sv && sn) (sv && sr) false
        startAddr := if sv then a else 0, cntLoadValue := 0, running := false } := by
    cases sv <;> cases sn <;> cases sr <;> rfl
  have hbits : ∀ v n r : Bool,
      State.eventVector false false v n r false ||| tickRow.pattern =
        State.eventVector false true v n r false ∧
      ∀ t, State.eventVector false t v n r false ||| loadCntRow.pattern =
        State.eventVector false t v n r true := by
    decide
  rw [encodeEvent, requests, List.foldl_append, List.foldl_append, hsession]
  cases running <;> cases load <;> simp [addToWord, hbits]

theorem decodeEvent_encodeEvent_requests {sv sn sr : Bool} {a : Nat} {running : Option Bool}
    {load : Option Nat} (hne : requests sv sn sr a running load ≠ []) :
    decodeEvent (encodeEvent (requests sv sn sr a running load)) =
      requests sv sn sr a running load := by
  have hany : (running.isSome || sv || load.isSome) = true := by
    cases running <;> cases sv <;> cases load <;> simp_all [requests, sessionRequest]
  rw [encodeEvent_requests, decodeEvent_eventVector hany, ite_isSome_eq_toList,
    ite_isSome_eq_toList, requests, sessionRequest]
  cases sv <;> simp

theorem encodeEvent_requests_fits {b : Build} {sv sn sr : Bool} {a : Nat} {running : Option Bool}
    {load : Option Nat} (h : ∀ i ∈ requests sv sn sr a running load, i.fits b = true) :
    (encodeEvent (requests sv sn sr a running load)).Fits b := by
  rw [encodeEvent_requests]
  constructor
  · cases sv with
    | false => exact Nat.two_pow_pos _
    | true =>
      have hmem := h (if sn then .cancel a sr else .start a sr) (by simp [requests, sessionRequest])
      cases sn <;> exact of_decide_eq_true hmem
  · cases load with
    | none => exact Nat.two_pow_pos _
    | some v => exact of_decide_eq_true (h (.loadCnt v) (by simp [requests]))

/-- Settles O20: the encoded event word fits its ports, so it is read back from its bytes, and it selects
the operations it was made from. -/
theorem decodingAnEncodedCycleGivesItBack : Obligations.DecodingAnEncodedCycleGivesItBack := by
  intro b is rest hwf hfits
  suffices h : (encodeEvent is).Fits b ∧ decodeEvent (encodeEvent is) = is by
    rw [encodeCycle, decodeBytes_encodeWord h.1, h.2]
  obtain rfl | rfl | ⟨hne, sv, sn, sr, a, running, load, rfl⟩ := exists_requests_of_wellFormed hwf
  · exact ⟨⟨Nat.two_pow_pos _, Nat.two_pow_pos _⟩, rfl⟩
  · exact ⟨⟨Nat.two_pow_pos _, Nat.two_pow_pos _⟩, rfl⟩
  · exact ⟨encodeEvent_requests_fits hfits, decodeEvent_encodeEvent_requests hne⟩

/-! ### The bytes that are refused -/

/-- The operations that an event word selects carry its operands. -/
theorem fits_of_mem_decodeEvent {b : Build} {w : EventWord} (hw : w.Fits b) {i : Instr}
    (h : i ∈ decodeEvent w) : i.fits b = true := by
  obtain ⟨haddr, hcount⟩ := hw
  rw [mem_decodeEvent, mem_decodeSession, mem_decodeTick, mem_decodeLoad] at h
  obtain ⟨-, rfl⟩ | ⟨-, rfl⟩ | (⟨-, rfl⟩ | ⟨-, rfl⟩) | ⟨-, rfl⟩ | ⟨-, rfl⟩ := h <;>
    simp [Instr.fits, haddr, hcount]

/-- A field of one byte is that byte. -/
theorem field_one {i : Nat} {bs : List Byte} (h : i < bs.length) :
    field i 1 bs = (bs.getD i 0).toNat := by
  simp [field, List.take_one, List.head?_drop, List.getElem?_eq_getElem h, ofBytes]

theorem decodeBytes_eq_ok {b : Build} {bs rest : List Byte} {is : List Instr} :
    decodeBytes b bs = .ok (is, rest) ↔
      ∃ w, readEventWord b bs = .ok (w, rest) ∧ is = decodeEvent w := by
  unfold decodeBytes
  split
  next e he => simp [he]
  next w rest' hw => simp [hw, eq_comm, and_comm]

/-- Settles O21: the decoder's checks, one after the other; and what it reads is an encoding. -/
theorem bytesAreRefusedByName : Obligations.BytesAreRefusedByName := by
  intro b bs
  have hwords : wordBytes b = 1 + addrBytes b + countBytes b + 1 := rfl
  have hevent (hlen : wordBytes b ≤ bs.length) : (bs.getD 0 0).toNat = eventField bs :=
    (field_one (by omega)).symm
  have hrunning (hlen : wordBytes b ≤ bs.length) :
      (bs.getD (wordBytes b - 1) 0).toNat = runningField b bs :=
    (field_one (by omega)).symm
  refine ⟨fun hlen => ?truncated, fun hlen he => ?event, fun hlen he ha => ?address,
    fun hlen he ha hc => ?count, fun hlen he ha hc hr => ?running,
    fun hlen he ha hc hr => ?accepted, fun is rest h => ?encoding⟩
  case truncated => simp [decodeBytes, readEventWord, hlen]
  case event =>
    rw [hevent hlen] at he
    simp [decodeBytes, readEventWord, hlen.not_gt, he]
  case address =>
    rw [hevent hlen] at he
    simp [decodeBytes, readEventWord, hlen.not_gt, he.not_ge, ha]
  case count =>
    rw [hevent hlen] at he
    simp [decodeBytes, readEventWord, hlen.not_gt, he.not_ge, ha.not_ge, hc]
  case running =>
    rw [hevent hlen] at he
    rw [hrunning hlen] at hr
    simp [decodeBytes, readEventWord, hlen.not_gt, he.not_ge, ha.not_ge, hc.not_ge, hr]
  case accepted =>
    rw [hevent hlen] at he
    rw [hrunning hlen] at hr
    simp [decodeBytes, readEventWord, hlen.not_gt, he.not_ge, ha.not_ge, hc.not_ge, hr.not_ge]
  case encoding =>
    obtain ⟨w, hread, rfl⟩ := decodeBytes_eq_ok.1 h
    obtain ⟨hfits, hbytes⟩ := readEventWord_eq_ok hread
    exact ⟨cycleWellFormed_decodeEvent w, fun _ => fits_of_mem_decodeEvent hfits, w, rfl, hbytes⟩

/-! ### Words written out, and the word of a cycle -/

/-- Settles O19: the decoder is run on the words. -/
theorem writtenWordsDecode : Obligations.WrittenWordsDecode := by
  unfold Obligations.WrittenWordsDecode
  decide

/-- The bits of an event vector by the fields of 30_encoding.md R60. -/
theorem getLsbD_eventVector : ∀ rst tick sv sn sr lv : Bool,
    (State.eventVector rst tick sv sn sr lv).getLsbD 5 = rst ∧
    (State.eventVector rst tick sv sn sr lv).getLsbD 4 = tick ∧
    (State.eventVector rst tick sv sn sr lv).getLsbD 3 = sv ∧
    (State.eventVector rst tick sv sn sr lv).getLsbD 2 = sn ∧
    (State.eventVector rst tick sv sn sr lv).getLsbD 1 = sr ∧
    (State.eventVector rst tick sv sn sr lv).getLsbD 0 = lv := by
  decide

/-- Settles O16: the event vector is made of the ports and the strobe, and a reset cycle has no tick. -/
theorem eventVectorIsFormedFromThePorts : Obligations.EventVectorIsFormedFromThePorts := by
  intro s
  obtain ⟨hrst, htick, hsv, hsn, hsr, hlv⟩ := getLsbD_eventVector s.currentInput.rst s.tickNow
    s.currentInput.startValid s.currentInput.startNull s.currentInput.startRepeat
    s.currentInput.cntLoadValid
  exact ⟨hrst, htick, hsv, hsn, hsr, hlv, rfl, rfl, rfl, fun hr => htick.trans (tickNow_of_rst hr)⟩

end Sys2Proof
end

section
/-! The statements on single operations: what each leaves unchanged, when one stops, and ticks one after the
other. -/

namespace Sys2Proof.Machine

open State

/-! ### STEP inside a letter, and its frame -/

/-- Inside a letter STEP emits from the registers (40_morse_encoder.md R88, R89). -/
theorem State.encoderNext_of_midLetter {s : State} (ha : s.active = true) (hb : s.bits ≠ 0) :
    s.encoderNext = s.quietStep.emitSlot s.code s.bits := by
  have h := encoderNext_cases s
  simp_all

/-- STEP never starts a session. -/
theorem State.active_of_encoderNext_active {s : State} (h : s.encoderNext.active = true) :
    s.active = true :=
  Bool.of_not_eq_false fun ha => by simp [encoderNext_of_idle ha, ha] at h

/-- Settles O8: inside a letter STEP is the emission of a slot from the registers. -/
theorem midLetterStepEmitsAndShifts : Obligations.MidLetterStepEmitsAndShifts := by
  intro s ha hb hle
  rw [exec_step_of_ready fun _ => hle, encoderNext_of_midLetter ha hb]
  rfl

/-- Settles O9: STEP's frame, and it leaves a BITS that has a meaning. -/
theorem stepCompletesAndKeepsTheRest : Obligations.StepCompletesAndKeepsTheRest := by
  intro s hs
  obtain ⟨hbase, hrep, hhb, hcnt, hpsc, hbuild, hmem, hin, hcyc, htick, haaddr, hbaddr⟩ :=
    encoderNext_frame s
  exact ⟨s.encoderNext, exec_step_of_ready hs, hbase, hrep, hhb, hcnt, hpsc, hbuild,
    fun a => by rw [memRead, memRead, hmem], hmem, hin, hcyc, htick, haaddr, hbaddr,
    active_of_encoderNext_active, encoderNext_stepReady hs⟩

/-! ### RESET and NOP -/

/-- Settles O12: RESET clears the registers and then the strobes. -/
theorem resetClearsEveryRegister : Obligations.ResetClearsEveryRegister := fun s => exec_reset s

/-- Settles O13: NOP clears the strobes and does no more. -/
theorem nopChangesNoRegister : Obligations.NopChangesNoRegister := fun s => exec_nop s

/-! ### When an operation stops -/

/-- STEP has one way to stop. -/
theorem encoderStep_eq_refused {s : State} {r : Refusal} :
    s.encoderStep = .refused r ↔ s.bitsOutsideModel = true ∧ r = .bitsOutsideModel := by
  unfold encoderStep
  cases s.bitsOutsideModel <;> simp [eq_comm]

theorem bitsOutsideModel_eq_true {s : State} :
    s.bitsOutsideModel = true ↔ s.active = true ∧ 16 < s.bits.toNat := by
  simp [State.bitsOutsideModel]

/-- Only STEP and TICK stop, on a BITS that has no meaning (93_implementation_defined.md I10). -/
theorem exec_eq_refused {i : Instr} {s : State} {r : Refusal} (h : exec i s = .refused r) :
    (i = .step ∨ ∃ running, i = .tick running) ∧ s.bitsOutsideModel = true ∧
      r = .bitsOutsideModel := by
  cases i with
  | step => exact ⟨.inl rfl, encoderStep_eq_refused.1 h⟩
  | tick running =>
    exact ⟨.inr ⟨running, rfl⟩, encoderStep_eq_refused (s := (s.heartbeat running).countdown).1 h⟩
  | start | cancel | loadCnt | reset | nop => cases h

/-- Settles O14: a refusal is STEP's, which TICK shares; the type of faults is empty. -/
theorem onlyMeaninglessBitsStopAnOperation : Obligations.OnlyMeaninglessBitsStopAnOperation := by
  refine ⟨fun i s => ?only, fun s ha hb => ?both, fun _ _ f => nomatch f⟩
  case only =>
    by_cases h : ∃ r, exec i s = .refused r
    · obtain ⟨r, hr⟩ := h
      obtain ⟨hi, hbits, rfl⟩ := exec_eq_refused hr
      obtain ⟨ha, hb⟩ := bitsOutsideModel_eq_true.1 hbits
      exact .inr ⟨hi, ha, hb, hr⟩
    · exact .inl (not_exists.1 h)
  case both =>
    have hbits := bitsOutsideModel_eq_true.2 ⟨ha, hb⟩
    exact ⟨encoderStep_eq_refused.2 ⟨hbits, rfl⟩, fun running =>
      encoderStep_eq_refused (s := (s.heartbeat running).countdown).2 ⟨hbits, rfl⟩⟩

/-! ### What no operation changes -/

/-- No operation writes the message memory, the build, the inputs or the cycle counter. -/
theorem exec_frame {i : Instr} {s t : State} (h : exec i s = .next t) :
    t.mem = s.mem ∧ t.build = s.build ∧ t.inputs = s.inputs ∧ t.cycle = s.cycle := by
  have hstep {u v : State} (hv : u.encoderStep = .next v) :
      v.mem = u.mem ∧ v.build = u.build ∧ v.inputs = u.inputs ∧ v.cycle = u.cycle := by
    obtain ⟨-, rfl⟩ := encoderStep_eq_next.1 hv
    obtain ⟨-, -, -, -, -, hbuild, hmem, hin, hcyc, -⟩ := encoderNext_frame u
    exact ⟨hmem, hbuild, hin, hcyc⟩
  cases i with
  | step => exact hstep h
  | tick running => exact hstep (u := (s.heartbeat running).countdown) h
  | start | cancel | loadCnt | reset | nop => cases h; exact ⟨rfl, rfl, rfl, rfl⟩

/-- Settles O15: the frame of every operation; and those that are not STEP or TICK do not read the
memory. -/
theorem operationsNeverWriteTheMessageMemory :
    Obligations.OperationsNeverWriteTheMessageMemory := by
  refine ⟨fun i s t h => ?writes, fun i s t m hstep htick h => ?reads⟩
  case writes =>
    obtain ⟨hmem, hbuild, hin, hcyc⟩ := exec_frame h
    exact ⟨fun a => by rw [memRead, memRead, hmem], hmem, hbuild, hin, hcyc⟩
  case reads =>
    cases i with
    | step => exact absurd rfl hstep
    | tick running => exact absurd rfl (htick running)
    | start | cancel | loadCnt | reset | nop => cases h; rfl

/-! ### Ticks one after the other -/

/-- Settles O38: each tick inverts HB_LED and leaves a BITS that has a meaning. -/
theorem heartbeatIsASquareWave : Obligations.HeartbeatIsASquareWave := by
  intro k s hs
  induction k generalizing s with
  | zero => exact ⟨s, rfl, by simp⟩
  | succ k ih =>
    rw [List.replicate_succ, runOps_cons_next (exec_tick_of_ready hs true),
      encoderNext_countdown_heartbeat]
    obtain ⟨t, hrun, hled⟩ := ih { s.encoderNext with
      hbLed := heartbeatNext true s.hbLed, cnt := countdownNext s.cnt } (encoderNext_stepReady hs)
    refine ⟨t, hrun, hled.trans ?_⟩
    obtain hk | hk := Nat.mod_two_eq_zero_or_one k <;>
      simp [heartbeatNext, hk, Nat.add_mod]

/-- Settles O39: each tick takes one off a countdown that stops at 0. -/
theorem countdownCountsTicks : Obligations.CountdownCountsTicks :=
  fun rs _ hs => runOps_ticks_cnt rs hs

/-! ### The ticks of a letter -/

/-- The last `n` ticks emitted the first `n` slots of an entry, and the registers hold the rest of it
(40_morse_encoder.md R88, R89). -/
structure InLetter (e : LutEntry) (n : Nat) (t : State) : Prop where
  active   : t.active = true
  write    : t.wires.faultWe = true
  slot     : t.wires.faultBit = e.code.getLsbD (n - 1)
  led      : t.faultLed = e.code.getLsbD (n - 1)
  code     : t.code = e.code >>> n
  bits     : t.bits.toNat = e.bits.toNat - n

/-- The character at CURSOR is loaded, and its first slot emitted. -/
theorem inLetter_of_character {s : State} (ha : s.active = true) (hb : s.bits = 0)
    (hc : s.memRead s.cursor ≠ 0) :
    InLetter (lut (s.memRead s.cursor)) 1 s.encoderNext ∧
      s.encoderNext.cursor = nextAddr s.build s.cursor := by
  have hpos := (lut_sound (s.memRead s.cursor)).1
  rw [encoderNext_of_character ha hb hc]
  exact ⟨⟨ha, rfl, rfl, rfl, rfl, by rw [consume_bits]; bv_omega⟩, rfl⟩

/-- The timer duties of the load tick play no part in it. -/
theorem inLetter_of_load_tick {s : State} (ha : s.active = true) (hb : s.bits = 0)
    (hc : s.memRead s.cursor ≠ 0) (running : Bool) :
    InLetter (lut (s.memRead s.cursor)) 1 (s.heartbeat running).countdown.encoderNext ∧
      (s.heartbeat running).countdown.encoderNext.cursor = nextAddr s.build s.cursor :=
  inLetter_of_character (s := (s.heartbeat running).countdown) ha hb hc

/-- The timer duties leave a letter alone. -/
theorem InLetter.timers {e : LutEntry} {n : Nat} {t : State} (h : InLetter e n t) (running : Bool) :
    InLetter e n (t.heartbeat running).countdown :=
  ⟨h.active, h.write, h.slot, h.led, h.code, h.bits⟩

/-- STEP inside a letter emits the next slot, and CURSOR stays. -/
theorem InLetter.encoderNext {e : LutEntry} {n : Nat} {t : State} (h : InLetter e n t)
    (hlt : n < e.bits.toNat) :
    InLetter e (n + 1) t.encoderNext ∧ t.encoderNext.cursor = t.cursor := by
  have hbits := h.bits
  have hne : t.bits ≠ 0 := fun h0 => by
    simp only [h0, BitVec.ofNat_eq_ofNat, BitVec.toNat_ofNat, Nat.zero_mod] at hbits
    omega
  have hslot : t.code.getLsbD 0 = e.code.getLsbD n := by simp [h.code]
  rw [encoderNext_of_midLetter h.active hne]
  refine ⟨⟨h.active, rfl, hslot, hslot, ?_, ?_⟩, rfl⟩
  · simp [h.code, BitVec.shiftRight_add]
  · rw [emitSlot_bits]
    bv_omega

/-- Ticks inside a letter complete and emit its slots in order. -/
theorem InLetter.ticks {e : LutEntry} {n : Nat} (he : e.bits.toNat ≤ 16) (rs : List Bool)
    {t : State} (h : InLetter e n t) (hle : n + rs.length ≤ e.bits.toNat) :
    ∃ u, runOps (rs.map Instr.tick) t = .next u ∧ InLetter e (n + rs.length) u ∧
      u.cursor = t.cursor ∧ u.base = t.base ∧ u.mem = t.mem := by
  induction rs generalizing n t with
  | nil => exact ⟨t, rfl, h, rfl, rfl, rfl⟩
  | cons r rs ih =>
    rw [List.length_cons] at hle
    have hready : t.StepReady := fun _ => h.bits ▸ (Nat.sub_le _ _).trans he
    obtain ⟨hnext, hcursor⟩ := (h.timers r).encoderNext (by omega)
    obtain ⟨hbase, -, -, -, -, -, hmem, -⟩ := encoderNext_frame (t.heartbeat r).countdown
    obtain ⟨u, hrun, hu, hcursor', hbase', hmem'⟩ := ih hnext (by omega)
    rw [List.map_cons, runOps_cons_next (exec_tick_of_ready hready r), List.length_cons,
      Nat.add_comm rs.length, ← Nat.add_assoc]
    exact ⟨u, hrun, hu, hcursor'.trans hcursor, hbase'.trans hbase, hmem'.trans hmem⟩

/-- Settles O41: the load tick enters the letter, the other ticks go through it, and where BITS is 0 the
next tick loads. -/
theorem lettersLastTheirBitCount : Obligations.LettersLastTheirBitCount := by
  intro s rs ha hb hc hpos hle
  match rs with
  | r :: rs =>
    obtain ⟨hload, hcursor⟩ := inLetter_of_load_tick ha hb hc r
    obtain ⟨hbase, -, -, -, -, -, hmem, -⟩ := encoderNext_frame (s.heartbeat r).countdown
    rw [List.length_cons] at hle ⊢
    obtain ⟨t, hrun, ht, hcursor', hbase', hmem'⟩ := hload.ticks (lut_sound _).2.1 rs (by omega)
    rw [Nat.add_comm] at ht
    refine ⟨t, ?_, ht.write, ht.slot, ht.led, ht.bits, hcursor'.trans hcursor, ht.active,
      hbase'.trans hbase, hmem'.trans hmem, fun hend r' => ?_⟩
    · rw [List.map_cons, runOps_cons_next (exec_tick_of_ready (stepReady_of_bits_eq_zero hb) r)]
      exact hrun
    · have hb' : t.bits = 0 := BitVec.eq_of_toNat_eq (by rw [ht.bits, hend, Nat.sub_self]; rfl)
      exact ⟨_, exec_tick_of_ready (stepReady_of_bits_eq_zero hb') r',
        (encoderNext_memAEn (t.heartbeat r').countdown).2 ⟨ht.active, hb'⟩⟩

end Sys2Proof.Machine
end

section
/-! The invariant: every operation keeps it, so every cycle and every run from reset does. The statements
on the invariant. -/

namespace Sys2Proof.Machine

open State

/-! ### Each update of the state keeps the invariant -/

/-- The prescaler stays below PRESCALE_N (10_state.md R38). -/
theorem prescalerNext_lt {n psc : Nat} (h : psc < n) (rst clkEn : Bool) :
    prescalerNext n psc rst clkEn < n := by
  unfold prescalerNext
  split_ifs with _ htop
  · exact Nat.zero_lt_of_lt h
  · have hne : psc ≠ n - 1 := by simpa using htop
    omega
  · exact h

namespace State.Inv

variable {s : State}

theorem code_eq_zero (h : s.Inv) (hb : s.bits = 0) : s.code = 0 := by
  have hlt := h.codeBelow
  rw [hb] at hlt
  exact BitVec.eq_of_toNat_eq (Nat.lt_one_iff.1 hlt)

/-- While idle BITS is 0 (10_state.md R37). -/
theorem bits_of_idle (h : s.Inv) (ha : s.active = false) : s.bits = 0 :=
  Decidable.of_not_not fun hne => Bool.eq_false_iff.1 ha (h.bitsActive hne)

theorem stepReady (h : s.Inv) : s.StepReady := fun _ => h.bitsLe

theorem quietStep (h : s.Inv) : s.quietStep.Inv := { h with }

theorem usePortA (h : s.Inv) : s.usePortA.Inv := { h with }

theorem usePortB (h : s.Inv) : s.usePortB.Inv := { h with }

theorem quiet (h : s.Inv) : s.quiet.Inv := { h with }

theorem heartbeat (h : s.Inv) (running : Bool) : (s.heartbeat running).Inv := { h with }

theorem setCnt (h : s.Inv) {v : Nat} (hv : v < 2 ^ s.build.cntW) : (s.setCnt v).Inv :=
  { h with cntFits := hv }

theorem countdown (h : s.Inv) : s.countdown.Inv :=
  h.setCnt (countdownNext_eq s.cnt ▸ Nat.lt_of_le_of_lt (Nat.sub_le _ _) h.cntFits)

theorem replaceSession (h : s.Inv) (n : Bool) {a : Nat} (ha : a < 2 ^ s.build.addrW) (r : Bool) :
    (s.replaceSession n a r).Inv :=
  { h with
    bitsLe := Nat.zero_le _
    bitsActive := fun hne => absurd rfl hne
    codeBelow := Nat.one_pos
    ledOff := fun _ => rfl
    baseFits := ha
    cursorFits := ha }

theorem clearRegisters (h : s.Inv) : s.clearRegisters.Inv :=
  { h with
    pscBelow := h.buildOk.2.2
    bitsLe := Nat.zero_le _
    bitsActive := fun hne => absurd rfl hne
    codeBelow := Nat.one_pos
    ledOff := fun _ => rfl
    baseFits := Nat.two_pow_pos _
    cursorFits := Nat.two_pow_pos _
    cntFits := Nat.two_pow_pos _ }

/-- A session ends only between letters. -/
theorem endSession (h : s.Inv) (hb : s.bits = 0) : s.endSession.Inv :=
  { h with bitsActive := fun hne => absurd hb hne }

/-- Emitting a slot of a letter: where it was the last one it is off, and no slot is left
(30_encoding.md R71; 41_tick_scheduler.md R107). -/
theorem emitSlot (h : s.Inv) (ha : s.active = true) {code : Code} {bits : SlotCount}
    (hpos : 1 ≤ bits.toNat) (hle : bits.toNat ≤ 16) (hcode : code.toNat < 2 ^ (bits.toNat - 1)) :
    (s.emitSlot code bits).Inv := by
  have hbits : (bits - 1).toNat = bits.toNat - 1 := by bv_omega
  have hshift : (code >>> 1).toNat = code.toNat / 2 := by simp [Nat.shiftRight_one]
  refine { h with
    bitsLe := by rw [emitSlot_bits, hbits]; omega
    bitsActive := fun _ => ha
    codeBelow := ?_
    ledOff := fun h0 => ?_ }
  · rw [emitSlot_code, emitSlot_bits, hshift, hbits]
    obtain hlast | ⟨n, hn⟩ : bits.toNat - 1 = 0 ∨ ∃ n, bits.toNat - 1 = n + 1 :=
      (Nat.eq_zero_or_eq_succ_pred _).imp_right fun h => ⟨_, h⟩
    · rw [hlast] at hcode ⊢
      omega
    · rw [hn, Nat.pow_succ] at hcode
      rw [hn, Nat.add_sub_cancel]
      omega
  · have hlast : bits.toNat - 1 = 0 := by rw [← hbits, ← emitSlot_bits s code, h0]; rfl
    rw [hlast] at hcode
    have hzero : code = 0 := BitVec.eq_of_toNat_eq (Nat.lt_one_iff.1 hcode)
    rw [emitSlot_faultLed, hzero]
    rfl

/-- Every entry of the LUT has a last slot, which is off. -/
theorem consume (h : s.Inv) (ha : s.active = true) (c : Byte) {next : Nat}
    (hn : next < 2 ^ s.build.addrW) : (s.consume c next).Inv := by
  obtain ⟨hge, hle, hcode⟩ := lut_sound c
  have hmoved : { s with cursor := next }.Inv := { h with cursorFits := hn }
  exact hmoved.emitSlot ha (by omega) hle hcode

theorem openCycle (h : s.Inv) : s.openCycle.Inv :=
  { h with pscBelow := prescalerNext_lt h.pscBelow _ _ }

theorem closeCycle (h : s.Inv) (ws : List (Nat × Byte)) : (s.closeCycle ws).Inv :=
  { h with memWf := applyWrites_wf ws h.memWf }

/-! ### Each operation keeps the invariant -/

/-- STEP keeps the invariant, by its six cases. -/
theorem encoderNext (h : s.Inv) : s.encoderNext.Inv := by
  rcases encoderNext_cases s with ⟨ha, he⟩ | ⟨ha, hb, he⟩ | ⟨ha, hb, hc, he⟩ | ⟨ha, hb, hc, hr, he⟩ |
    ⟨ha, hb, hc, hr, hc', he⟩ | ⟨ha, hb, hc, hr, hc', he⟩ <;> rw [he]
  · exact h.quietStep
  · have hpos : 1 ≤ s.bits.toNat := Nat.pos_of_ne_zero fun h0 => hb (BitVec.eq_of_toNat_eq h0)
    exact h.quietStep.emitSlot ha hpos h.bitsLe h.codeBelow
  · exact h.quietStep.usePortA.consume ha _ (nextAddr_lt _ _)
  · exact h.quietStep.usePortA.endSession hb
  · exact h.quietStep.usePortA.usePortB.consume ha _ (nextAddr_lt _ _)
  · exact h.quietStep.usePortA.usePortB.endSession hb

/-- An operation whose operand fits its port completes and keeps the invariant. -/
theorem exec (h : s.Inv) {i : Instr} (hi : i.fits s.build = true) :
    ∃ t, exec i s = .next t ∧ t.Inv := by
  cases i with
  | start a r => exact ⟨_, rfl, h.replaceSession false (of_decide_eq_true hi) r⟩
  | cancel a r => exact ⟨_, rfl, h.replaceSession true (of_decide_eq_true hi) r⟩
  | loadCnt v => exact ⟨_, rfl, h.setCnt (of_decide_eq_true hi)⟩
  | tick running =>
    exact ⟨_, exec_tick_of_ready h.stepReady running, (h.heartbeat running).countdown.encoderNext⟩
  | step => exact ⟨_, exec_step_of_ready h.stepReady, h.encoderNext⟩
  | reset => exact ⟨_, rfl, h.clearRegisters.quiet⟩
  | nop => exact ⟨_, rfl, h.quiet⟩

theorem runOps (is : List Instr) (h : s.Inv) (hfits : ∀ i ∈ is, i.fits s.build = true) :
    ∃ t, runOps is s = .next t ∧ t.Inv := by
  induction is generalizing s with
  | nil => exact ⟨s, rfl, h⟩
  | cons i is ih =>
    obtain ⟨u, hu, hinv⟩ := h.exec (hfits i List.mem_cons_self)
    obtain ⟨-, hbuild, -⟩ := exec_frame hu
    rw [runOps_cons_next hu]
    exact ih hinv fun j hj => hbuild ▸ hfits j (List.mem_cons_of_mem i hj)

end State.Inv

/-! ### Cycles -/

/-- Where PSC has a meaning, a cycle is its operations between its opening and its close. -/
theorem step_of_psc {s : State} (h : s.pscOutsideModel = false) :
    step s = closing s.currentInput.memWrites (runOps (decodeEvent s.eventWord) s.openCycle) := by
  simp [step, runCycle, h]

theorem pscOutsideModel_of_lt {s : State} (h : s.psc < s.build.prescaleN) :
    s.pscOutsideModel = false := by
  simp [pscOutsideModel, h]

/-- The operands of a cycle fit the ports that carry them (10_state.md R33). -/
theorem eventWord_fits (s : State) : s.eventWord.Fits s.build := ⟨fitAddr_lt _ _, fitCount_lt _ _⟩

theorem State.Inv.step {s : State} (h : s.Inv) : ∃ t, step s = .next t ∧ t.Inv := by
  obtain ⟨t, hrun, hinv⟩ := h.openCycle.runOps (decodeEvent s.eventWord) fun i hi =>
    fits_of_mem_decodeEvent (eventWord_fits s) hi
  rw [step_of_psc (pscOutsideModel_of_lt h.pscBelow), hrun]
  exact ⟨_, rfl, hinv.closeCycle _⟩

/-- Settles O29: opening a cycle, each of its operations, and its close keep the invariant. -/
theorem everyCycleKeepsTheInvariant : Obligations.EveryCycleKeepsTheInvariant := fun _ h => h.step

/-! ### Runs from reset -/

theorem reset_inv {b : Build} {m : Memory} (ins : List CycleIn) (hb : b.Ok)
    (hm : Memory.wf (2 ^ b.addrW) m) :
    { State.reset with build := b, mem := m, inputs := ins }.Inv :=
  { buildOk := hb
    pscBelow := hb.2.2
    bitsLe := Nat.zero_le _
    bitsActive := fun hne => absurd rfl hne
    codeBelow := Nat.one_pos
    ledOff := fun _ => rfl
    baseFits := Nat.two_pow_pos _
    cursorFits := Nat.two_pow_pos _
    cntFits := Nat.two_pow_pos _
    memWf := hm }

/-- Settles O28: every register is 0, and State.reset has the hardware's build and an empty memory. -/
theorem resetMeetsTheInvariant : Obligations.ResetMeetsTheInvariant :=
  ⟨reset_inv (b := Build.hardware) [] (by decide) (Memory.wf_nil _), fun _ _ ins => reset_inv ins⟩

/-- No cycle writes the build parameters. -/
theorem step_build {s t : State} (h : step s = .next t) : t.build = s.build := by
  rw [eq_cycle_of_step h, Reference.cycle]
  split <;> rfl

/-- Runs of any length complete and keep the invariant. -/
theorem State.Inv.runCycles (k : Nat) {s : State} (h : s.Inv) :
    ∃ t, runCycles k s = .next t ∧ t.Inv ∧ t.build = s.build := by
  induction k generalizing s with
  | zero => exact ⟨s, rfl, h, rfl⟩
  | succ k ih =>
    obtain ⟨u, hu, hinv⟩ := h.step
    obtain ⟨t, hrun, ht, hbuild⟩ := ih hinv
    exact ⟨t, by simpa [Machine.runCycles, hu] using hrun, ht, hbuild.trans (step_build hu)⟩

/-- Settles O30: the bounds are the invariant's or weaker. -/
theorem reachableStatesStayInBounds : Obligations.ReachableStatesStayInBounds := by
  intro b m ins k hb hm
  obtain ⟨t, hrun, ht, hbuild⟩ := (reset_inv ins hb hm).runCycles k
  have hpow : 2 ^ (t.bits.toNat - 1) ≤ 2 ^ t.bits.toNat :=
    Nat.pow_le_pow_right (by decide) (Nat.sub_le _ _)
  have hpsc := ht.pscBelow
  rw [hbuild] at hpsc
  exact ⟨t, hrun, Nat.lt_of_lt_of_le ht.codeBelow hpow, ht.code_eq_zero, ht.bitsLe, ht.bitsActive,
    Nat.le_sub_one_of_lt hpsc, fun ha => ht.ledOff (ht.bits_of_idle ha)⟩

end Sys2Proof.Machine
end

section
/-! The statements on one cycle: what it selects, when it stops, and what it does without a tick or for other
agents. -/

namespace Sys2Proof.Machine

open State

/-! ### When a cycle has a next state -/

/-- What a cycle uses of PSC and of BITS has a meaning (10_state.md R26, R38). `step_eq_next` ties it to
`step`. -/
def State.CycleReady (s : State) : Prop :=
  s.pscOutsideModel = false ∧ (s.tickNow = true → (Reference.seen s).active = true →
    (Reference.seen s).bits.toNat ≤ 16)

/-- A cycle has a next state exactly where what it uses has a meaning, and then R110's. -/
theorem step_eq_next {s t : State} :
    step s = .next t ↔ s.CycleReady ∧ t = Reference.cycle s := by
  constructor
  · intro h
    refine ⟨?_, eq_cycle_of_step h⟩
    cases hr : s.currentInput.rst with
    | false =>
      obtain ⟨hpsc, hbits, -⟩ := (step_eq_next_of_not_rst hr).1 h
      exact ⟨hpsc, fun ht => startStage_bitsOutsideModel.1 (hbits ht)⟩
    | true =>
      refine ⟨by simp [pscOutsideModel, hr], fun ht => ?_⟩
      rw [rst_eq_false_of_tickNow ht] at hr
      cases hr
  · rintro ⟨⟨hpsc, hbits⟩, rfl⟩
    exact step_eq_cycle hpsc hbits

/-- Without a tick nothing uses BITS. -/
theorem cycleReady_of_no_tick {s : State} (hpsc : s.pscOutsideModel = false)
    (ht : s.tickNow = false) : s.CycleReady :=
  ⟨hpsc, fun h => by simp [ht] at h⟩

/-- Operations one after the other stop only as STEP does. -/
theorem eq_bitsOutsideModel_of_runOps {is : List Instr} {s : State} {r : Refusal}
    (h : runOps is s = .refused r) : r = .bitsOutsideModel := by
  induction is generalizing s with
  | nil => cases h
  | cons i is ih =>
    rw [runOps] at h
    split at h
    next u hu => exact ih h
    next f hf => cases h
    next r' hr' =>
      cases h
      exact (exec_eq_refused hr').2.2

/-- A cycle with a PSC that has a meaning, but without a next state, stops at its STEP. -/
theorem step_eq_bitsOutsideModel {s : State} (hpsc : s.pscOutsideModel = false)
    (hnot : ∀ t, step s ≠ .next t) : step s = .refused .bitsOutsideModel := by
  rw [step_of_psc hpsc] at hnot ⊢
  cases hrun : runOps (decodeEvent s.eventWord) s.openCycle with
  | next t => exact absurd (congrArg _ hrun) (hnot _)
  | fault f => exact nomatch f
  | refused r => rw [eq_bitsOutsideModel_of_runOps hrun, closing_refused]

/-- Settles O24: the prescaler's check comes first, and where a cycle passes it only STEP can stop it. -/
theorem cyclesStopOnlyOutsideTheModel : Obligations.CyclesStopOnlyOutsideTheModel := by
  intro s
  refine ⟨fun hr hen hp => ?psc, fun hpsc ht ha hb => ?bits, fun hpsc hbits => ?next,
    fun f => nomatch f⟩
  case psc => simp [step, runCycle, pscOutsideModel, hr, hen, hp]
  case bits =>
    refine step_eq_bitsOutsideModel hpsc fun t h => ?_
    obtain ⟨⟨-, hle⟩, -⟩ := step_eq_next.1 h
    exact absurd hb (Nat.not_lt.2 (hle ht ha))
  case next => exact ⟨_, step_eq_cycle hpsc hbits⟩

/-! ### The operations of a cycle -/

/-- Settles O22: the ports' event word is read back from its bytes, and a cycle runs what it selects. -/
theorem stepRunsTheDecodedOperations : Obligations.StepRunsTheDecodedOperations := by
  intro s
  refine ⟨decodeEvent s.eventWord, ?bytes, cycleWellFormed_decodeEvent _, step_of_psc,
    fun i hi => fits_of_mem_decodeEvent (eventWord_fits s) hi, fun i t hpsc his hi => ?single, rfl⟩
  case bytes => simpa using decodeBytes_encodeWord (eventWord_fits s) []
  case single =>
    rw [step_of_psc hpsc, his, runOps_singleton, hi]
    rfl

/-! ### Cycles without a tick -/

/-- Without a tick the session is the one that a start request leaves, and there is no step write. -/
theorem stepOf_of_no_tick {s : State} (ht : s.tickNow = false) :
    Reference.stepOf s =
      { session := Reference.seen s, faultWe := false, faultBit := false,
        memAEn := false, memBEn := false } := by
  simp [Reference.stepOf, ht]

/-- Settles O27: without a tick the session after the cycle is the one the request gives. -/
theorem startRequestsAreAtomic : Obligations.StartRequestsAreAtomic := by
  intro s t hr hs ht h
  rw [eq_running_of_step hr h, Reference.running, stepOf_of_no_tick ht]
  simp [Reference.seen, hs, ht, outputMux]

theorem tickNow_of_disabled {s : State} (hen : s.currentInput.clkEn = false) :
    s.tickNow = false := by
  simp [tickNow, prescalerTick, hen]

/-- Settles O33: a disabled cycle uses no PSC and has no tick, so it completes; with PRESCALE_N = 1 every
enabled cycle is a tick. -/
theorem stoppedEnableFreezesTheTimeBase : Obligations.StoppedEnableFreezesTheTimeBase := by
  refine ⟨fun s hr hen => ?disabled, fun s t hn hp hr h => ?everyCycle⟩
  case disabled =>
    have ht := tickNow_of_disabled hen
    have hready : s.CycleReady := cycleReady_of_no_tick (by simp [pscOutsideModel, hen]) ht
    have hseen : s.currentInput.startValid = false → Reference.seen s = Reference.session s :=
      fun hs => by simp [Reference.seen, hs]
    have hstep : step s = .next (Reference.running s) :=
      step_eq_next.2 ⟨hready, by simp [Reference.cycle, hr]⟩
    refine ⟨_, hstep, ?_⟩
    rw [Reference.running, stepOf_of_no_tick ht]
    refine ⟨by simp [prescalerNext, hen], ht, by simp [ht], by simp [ht], rfl,
      fun hs => ⟨hseen hs, ?_⟩⟩
    simp [outputMux, hs]
  case everyCycle =>
    rw [step_psc hr h, step_tick h]
    cases hen : s.currentInput.clkEn <;>
      simp [tickNow, prescalerTick, prescalerNext, hn, hp, hr, hen]

/-! ### Writes of other agents -/

/-- In every cycle the message memory takes the writes of other agents and nothing else. -/
theorem step_mem {s t : State} (h : step s = .next t) :
    t.mem = applyWrites s.build s.currentInput.memWrites s.mem := by
  rw [eq_cycle_of_step h, Reference.cycle]
  split <;> rfl

theorem applyWrites_append (b : Build) (ws ws' : List (Nat × Byte)) (m : Memory) :
    applyWrites b (ws ++ ws') m = applyWrites b ws' (applyWrites b ws m) := by
  induction ws generalizing m with
  | nil => rfl
  | cons w ws ih => exact ih _

/-- Writes to other addresses leave a byte alone. -/
theorem read_applyWrites_of_forall_ne {b : Build} {ws : List (Nat × Byte)} {a : Nat} (m : Memory)
    (h : ∀ w ∈ ws, fitAddr b w.1 ≠ a) : Memory.read (applyWrites b ws m) a = Memory.read m a := by
  induction ws generalizing m with
  | nil => rfl
  | cons w ws ih =>
    obtain ⟨hw, hws⟩ := List.forall_mem_cons.1 h
    exact (ih _ hws).trans (Memory.read_write_other m w.2 (Ne.symm hw))

/-- The last write to an address stands. -/
theorem read_applyWrites_last {b : Build} {ws ws' : List (Nat × Byte)} {a : Nat} (v : Byte)
    (m : Memory) (ha : a < 2 ^ b.addrW) (h : ∀ w ∈ ws', fitAddr b w.1 ≠ a) :
    Memory.read (applyWrites b (ws ++ (a, v) :: ws') m) a = v := by
  rw [applyWrites_append, applyWrites, fitAddr_of_lt ha, read_applyWrites_of_forall_ne _ h,
    Memory.read_write_same]

/-- A cycle's writes to the memory play no part in it but in its next memory. -/
theorem step_of_memWrites {s t : State} {c : CycleIn} {cs : List CycleIn} (ws : List (Nat × Byte))
    (h : step { s with inputs := c :: cs } = .next t) :
    step { s with inputs := { c with memWrites := ws } :: cs } =
      .next { t with mem := applyWrites s.build ws s.mem } := by
  obtain ⟨hready, rfl⟩ := step_eq_next.1 h
  exact step_eq_next.2 ⟨hready,
    apply_ite (fun u : State => { u with mem := applyWrites s.build ws s.mem }) (c.rst = true)
      (Reference.resetting { s with inputs := c :: cs })
      (Reference.running { s with inputs := c :: cs })⟩

/-- Settles O49: only the close of a cycle uses its writes, and they land in their order. -/
theorem outsideWritesAreSeenFromTheNextCycle :
    Obligations.OutsideWritesAreSeenFromTheNextCycle := by
  refine ⟨fun s t c cs ws hin h => step_of_memWrites ws (hin ▸ h), fun s t a ha h => ⟨?last, ?none⟩⟩
  case last =>
    intro v ws ws' hws hne
    rw [memRead, step_mem h, hws]
    exact read_applyWrites_last v s.mem ha hne
  case none =>
    intro hne
    rw [memRead, step_mem h]
    exact read_applyWrites_of_forall_ne s.mem hne

/-! ### The width of PSC -/

/-- Settles O31: PRESCALE_N - 1 is the largest count, and its binary logarithm gives its width. -/
theorem pscFitsItsWidth : Obligations.PscFitsItsWidth := by
  intro n hn
  unfold Config.pscWidth
  split
  next hsmall => exact ⟨fun p hp => by omega, Nat.le_refl 1, fun w hw _ => hw⟩
  next hlarge =>
    refine ⟨fun p hp => ?fits, Nat.le_add_left 1 _, fun w _ hw => ?least⟩
    case fits => exact Nat.lt_of_le_of_lt (Nat.le_sub_one_of_lt hp) Nat.lt_log2_self
    case least => exact (Nat.log2_lt (by omega)).2 (hw (n - 1) (by omega))

end Sys2Proof.Machine
end

section
/-! The slots of messages by the classes of their bytes: the statement of 30_encoding.md on gaps. -/

namespace Sys2Proof.Machine

theorem messageSlots_cons (c : Byte) (cs : List Byte) :
    messageSlots (c :: cs) = entrySlots (lut c) ++ messageSlots cs := rfl

@[simp] theorem length_entrySlots (e : LutEntry) : (entrySlots e).length = e.bits.toNat := by
  simp [entrySlots]

/-- The slots of a built entry are those of its Morse sequence (30_encoding.md R71). -/
theorem entrySlots_buildEntry {es : List Element} (hlen : (letterSlots es).length ≤ 16) :
    entrySlots (buildEntry es) = letterSlots es := by
  refine List.ext_getElem ?_ fun k hk hk' => ?_
  · rw [length_entrySlots, buildEntry_bits hlen]
  · simp [entrySlots, buildEntry_code_getLsbD hlen, hk']

theorem entrySlots_of_letter {c : Byte} {i : Fin 26} (h : classify c = .letter i) :
    entrySlots (lut c) = letterSlots morse[i] := by
  rw [lut_of_letter h, alphabet_eq_buildEntry, entrySlots_buildEntry (length_letterSlots_morse i)]

/-- A non-letter is four off slots (30_encoding.md R69). -/
theorem entrySlots_of_nonLetter {c : Byte} (h : classify c = .nonLetter) :
    entrySlots (lut c) = List.replicate 4 false := by
  rw [lut_of_nonLetter h]
  decide

theorem messageSlots_of_nonLetters {ds : List Byte} (h : ∀ d ∈ ds, classify d = .nonLetter) :
    messageSlots ds = List.replicate (4 * ds.length) false := by
  induction ds with
  | nil => rfl
  | cons d ds ih =>
    obtain ⟨hd, hds⟩ := List.forall_mem_cons.1 h
    rw [messageSlots_cons, entrySlots_of_nonLetter hd, ih hds, List.replicate_append_replicate,
      List.length_cons, Nat.mul_succ, Nat.add_comm]

/-- Settles O54: a letter ends with an on slot and three off slots, and each non-letter adds four. -/
theorem gapsHaveTheirLengths : Obligations.GapsHaveTheirLengths := by
  refine ⟨fun i c ds hc hds => ?after, fun ds hds => messageSlots_of_nonLetters hds,
    fun i c hc => ?first⟩
  case after =>
    obtain ⟨on, hon⟩ := letterSlots_eq_append (morse_ne_nil i)
    refine ⟨on, ?_⟩
    rw [messageSlots_cons, entrySlots_of_letter hc, hon, messageSlots_of_nonLetters hds,
      List.append_assoc]
    exact congrArg _ (List.replicate_append_replicate (n := 3))
  case first =>
    obtain ⟨rest, hrest⟩ := letterSlots_eq_cons (morse_ne_nil i)
    rw [messageSlots_cons, entrySlots_of_letter hc, hrest]
    rfl

end Sys2Proof.Machine
end

section
/-! SUPPORT. Runs of cycles: the inputs of the coming cycles, and a run one cycle at a time. -/

namespace Sys2Proof.Machine

open State

/-! ### The inputs of the coming cycles -/

/-- The inputs of the next `k` cycles, listed or free. `upcoming_of_inputs` and `upcoming_cycle` tie them to
the model. -/
def upcoming : Nat → State → List CycleIn
  | 0, _ => []
  | k + 1, s => s.currentInput :: upcoming k s.openCycle

theorem currentInput_congr {s t : State} (hin : t.inputs = s.inputs) (hcyc : t.cycle = s.cycle) :
    t.currentInput = s.currentInput := by
  rw [currentInput, currentInput, hin, hcyc]

/-- Only the list of inputs and the cycle counter decide them. -/
theorem upcoming_congr (k : Nat) {s t : State} (hin : t.inputs = s.inputs)
    (hcyc : t.cycle = s.cycle) : upcoming k t = upcoming k s := by
  induction k generalizing s t with
  | zero => rfl
  | succ k ih =>
    rw [upcoming, upcoming, currentInput_congr hin hcyc, ih (s := s.openCycle) (t := t.openCycle)]
    · rw [openCycle_inputs, openCycle_inputs, hin]
    · rw [openCycle_cycle, openCycle_cycle, hcyc]

/-- Listed inputs come first. -/
theorem upcoming_of_inputs {s : State} {ds more : List CycleIn} (h : s.inputs = ds ++ more) :
    upcoming ds.length s = ds := by
  induction ds generalizing s with
  | nil => rfl
  | cons d ds ih =>
    have hrest : s.openCycle.inputs = ds ++ more := by
      rw [openCycle_inputs, h]
      rfl
    rw [List.length_cons, upcoming, ih hrest, currentInput, h]
    rfl

theorem cycle_frame (s : State) :
    (Reference.cycle s).build = s.build ∧
    (Reference.cycle s).mem = applyWrites s.build s.currentInput.memWrites s.mem ∧
    (Reference.cycle s).inputs = s.inputs.tail ∧ (Reference.cycle s).cycle = s.cycle + 1 := by
  unfold Reference.cycle
  split <;> exact ⟨rfl, rfl, rfl, rfl⟩

/-- A cycle takes its own inputs off. -/
theorem upcoming_cycle (k : Nat) (s : State) :
    upcoming (k + 1) s = s.currentInput :: upcoming k (Reference.cycle s) := by
  obtain ⟨-, -, hin, hcyc⟩ := cycle_frame s
  rw [upcoming, upcoming_congr k (s := s.openCycle) hin hcyc]

/-! ### A run, one cycle at a time -/

theorem step_of_ready {s : State} (h : s.CycleReady) : step s = .next (Reference.cycle s) :=
  step_eq_next.2 ⟨h, rfl⟩

theorem runCycles_succ_of_ready (k : Nat) {s : State} (h : s.CycleReady) :
    runCycles (k + 1) s = runCycles k (Reference.cycle s) := by
  rw [runCycles, step_of_ready h]

theorem slotTrace_succ_of_ready (k : Nat) {s : State} (h : s.CycleReady) :
    slotTrace (k + 1) s = tickSlot (Reference.cycle s) ++ slotTrace k (Reference.cycle s) := by
  rw [slotTrace, step_of_ready h]

/-- A run with a next state goes through its first cycle. -/
theorem cycleReady_of_runCycles {k : Nat} {s t : State} (h : runCycles (k + 1) s = .next t) :
    s.CycleReady := by
  rw [runCycles] at h
  split at h
  next u hu => exact (step_eq_next.1 hu).1
  next => cases h
  next => cases h

theorem slotTrace_succ_of_not_ready (k : Nat) {s : State} (h : ¬ s.CycleReady) :
    slotTrace (k + 1) s = [] := by
  rw [slotTrace]
  split
  next u hu => exact absurd (step_eq_next.1 hu).1 h
  next => rfl
  next => rfl

/-- One more cycle at the end of a run. -/
theorem runCycles_succ_of_run {k : Nat} {s t : State} (h : runCycles k s = .next t) :
    runCycles (k + 1) s = step t := by
  induction k generalizing s with
  | zero =>
    cases h
    rw [runCycles]
    cases step t <;> rfl
  | succ k ih =>
    have hready := cycleReady_of_runCycles h
    rw [runCycles_succ_of_ready _ hready] at h ⊢
    exact ih h

theorem runCycles_inputs {k : Nat} {s t : State} (h : runCycles k s = .next t) :
    t.inputs = s.inputs.drop k := by
  induction k generalizing s with
  | zero => cases h; rfl
  | succ k ih =>
    have hready := cycleReady_of_runCycles h
    rw [runCycles_succ_of_ready _ hready] at h
    obtain ⟨-, -, hin, -⟩ := cycle_frame s
    rw [ih h, hin, List.drop_tail]

/-! ### What a cycle leaves -/

theorem cycle_of_not_rst {s : State} (hr : s.currentInput.rst = false) :
    Reference.cycle s = Reference.running s := by
  rw [Reference.cycle, hr]
  rfl

theorem cycle_of_rst {s : State} (hr : s.currentInput.rst = true) :
    Reference.cycle s = Reference.resetting s :=
  if_pos hr

/-- The session after a cycle without reset is the one its STEP leaves. -/
theorem running_session (s : State) :
    Reference.session (Reference.running s) = (Reference.stepOf s).session := rfl

/-- The combinational outputs of any cycle. -/
theorem cycle_wires (s : State) :
    (Reference.cycle s).wires =
      if s.currentInput.rst then
        { Wires.zero with memAAddr := s.portAAddr, memBAddr := s.portBAddr }
      else
        { tick := s.tickNow
          faultWe := (Reference.stepOf s).faultWe
          faultBit := (Reference.stepOf s).faultBit
          memAAddr := s.portAAddr
          memAEn := (Reference.stepOf s).memAEn
          memBAddr := s.portBAddr
          memBEn := (Reference.stepOf s).memBEn } :=
  apply_ite State.wires (s.currentInput.rst = true) _ _

theorem cycle_psc {s : State} (hr : s.currentInput.rst = false) :
    (Reference.cycle s).psc =
      prescalerNext s.build.prescaleN s.psc s.currentInput.rst s.currentInput.clkEn := by
  rw [cycle_of_not_rst hr, Reference.running]

theorem cycle_psc_lt {s : State} (hr : s.currentInput.rst = false) (h : s.psc < s.build.prescaleN) :
    (Reference.cycle s).psc < (Reference.cycle s).build.prescaleN := by
  obtain ⟨hbuild, -⟩ := cycle_frame s
  rw [cycle_psc hr, hbuild]
  exact prescalerNext_lt h _ _

/-- A cycle with a PSC below PRESCALE_N stops at most at its STEP. -/
theorem cycleReady_of_psc_lt {s : State} (h : s.psc < s.build.prescaleN)
    (hbits : (Reference.seen s).active = true → (Reference.seen s).bits.toNat ≤ 16) :
    s.CycleReady :=
  ⟨pscOutsideModel_of_lt h, fun _ => hbits⟩

theorem seen_of_no_start {s : State} (hs : s.currentInput.startValid = false) :
    Reference.seen s = Reference.session s := by
  simp [Reference.seen, hs]

end Sys2Proof.Machine
end

section
/-! The statement of 41_tick_scheduler.md on the timing of ticks. -/

namespace Sys2Proof.Machine

open State

/-- The prescaler counts enabled cycles modulo PRESCALE_N (41_tick_scheduler.md R100). -/
theorem prescalerNext_eq_mod {n psc : Nat} (h : psc < n) (clkEn : Bool) :
    prescalerNext n psc false clkEn = (psc + clkEn.toNat) % n := by
  cases clkEn with
  | false => exact (Nat.mod_eq_of_lt h).symm
  | true =>
    simp only [prescalerNext, Bool.not_false, Bool.and_self, if_true, beq_iff_eq, Bool.toNat_true]
    split
    next htop => rw [htop, Nat.sub_add_cancel (Nat.one_le_of_lt h), Nat.mod_self]
    next htop => exact (Nat.mod_eq_of_lt (by omega)).symm

/-- A tick is an enabled cycle in which the count comes to 0. -/
theorem prescalerTick_iff {n psc : Nat} (h : psc < n) (clkEn : Bool) :
    prescalerTick n psc false clkEn = true ↔ clkEn = true ∧ (psc + clkEn.toNat) % n = 0 := by
  rw [← prescalerNext_eq_mod h]
  cases clkEn <;> simp [prescalerTick, prescalerNext]

/-- The enabled ones among the inputs of cycles. -/
theorem length_filter_clkEn_cons (c : CycleIn) (cs : List CycleIn) :
    ((c :: cs).filter (·.clkEn)).length = c.clkEn.toNat + (cs.filter (·.clkEn)).length := by
  cases h : c.clkEn <;> simp [h, Nat.add_comm]

/-- A run without reset counts its enabled cycles. -/
theorem runCycles_psc {k : Nat} {s t : State} (h : runCycles k s = .next t)
    (hp : s.psc < s.build.prescaleN) (hr : ∀ d ∈ upcoming k s, d.rst = false) :
    t.psc = (s.psc + ((upcoming k s).filter (·.clkEn)).length) % s.build.prescaleN := by
  induction k generalizing s with
  | zero =>
    cases h
    exact (Nat.mod_eq_of_lt hp).symm
  | succ k ih =>
    rw [runCycles_succ_of_ready _ (cycleReady_of_runCycles h)] at h
    rw [upcoming_cycle] at hr ⊢
    obtain ⟨hr0, hrest⟩ := List.forall_mem_cons.1 hr
    obtain ⟨hbuild, -⟩ := cycle_frame s
    rw [ih h (cycle_psc_lt hr0 hp) hrest, hbuild, cycle_psc hr0, hr0, prescalerNext_eq_mod hp,
      length_filter_clkEn_cons, Nat.mod_add_mod, Nat.add_assoc]

/-- Settles O37: before the last cycle PSC is the count of enabled cycles modulo PRESCALE_N, and the last
cycle counts on from it. -/
theorem ticksComeEveryPrescaleN : Obligations.TicksComeEveryPrescaleN := by
  intro s ins c more hinv hp0 hin hr hrc
  obtain ⟨u, hrun, hu, hbuild⟩ := hinv.runCycles ins.length
  obtain ⟨t, hstep, -⟩ := hu.step
  have hc : u.currentInput = c := by
    rw [currentInput, runCycles_inputs hrun, hin, List.drop_left]
  have hpsc := runCycles_psc hrun hinv.pscBelow (by rwa [upcoming_of_inputs hin])
  have hlt := hu.pscBelow
  rw [upcoming_of_inputs hin, hp0, Nat.zero_add] at hpsc
  rw [hbuild] at hlt
  have hcount : (u.psc + c.clkEn.toNat) % s.build.prescaleN =
      ((ins ++ [c]).filter (·.clkEn)).length % s.build.prescaleN := by
    rw [hpsc, Nat.mod_add_mod, List.filter_append, List.length_append, length_filter_clkEn_cons]
    rfl
  refine ⟨t, (runCycles_succ_of_run hrun).trans hstep, ?_, ?_⟩
  · rw [step_psc (hc ▸ hrc) hstep, hc, hrc, hbuild, prescalerNext_eq_mod hlt, hcount]
  · rw [step_tick hstep, tickNow, hc, hrc, hbuild, prescalerTick_iff hlt, hcount]

end Sys2Proof.Machine
end

section
/-! What the Morse output and the timers depend on: runs side by side. The statements on determinism and
independence. -/

namespace Sys2Proof.Machine

open State

/-! ### Cycles that are alike for the Morse output -/

/-- The states agree on what the encoder and FAULT_LED hold. -/
structure SameMorse (s s' : State) : Prop where
  build    : s'.build = s.build
  psc      : s'.psc = s.psc
  mem      : s'.mem = s.mem
  session  : Reference.session s' = Reference.session s
  faultLed : s'.faultLed = s.faultLed

/-- The states agree on what the next cycle uses for the Morse output: a start request makes up for any
difference in the session and in FAULT_LED. -/
structure SameMorseCycle (s s' : State) : Prop where
  build    : s'.build = s.build
  psc      : s'.psc = s.psc
  mem      : s'.mem = s.mem
  input    : s.currentInput.SameForMorse s'.currentInput
  seen     : Reference.seen s' = Reference.seen s
  faultLed : s.currentInput.startValid = false → s'.faultLed = s.faultLed

theorem SameMorse.toCycle {s s' : State} (h : SameMorse s s')
    (hin : s.currentInput.SameForMorse s'.currentInput) : SameMorseCycle s s' :=
  { build := h.build, psc := h.psc, mem := h.mem, input := hin, faultLed := fun _ => h.faultLed
    seen := by
      have hin' : s'.currentInput = _ := hin
      rw [Reference.seen, Reference.seen, hin', h.session, h.build] }

namespace SameMorseCycle

variable {s s' : State} (h : SameMorseCycle s s')
include h

theorem tickNow : s'.tickNow = s.tickNow := by
  have hin : s'.currentInput = _ := h.input
  rw [State.tickNow, State.tickNow, hin, h.build, h.psc]

theorem ready : s'.CycleReady ↔ s.CycleReady := by
  have hin : s'.currentInput = _ := h.input
  rw [CycleReady, CycleReady, h.tickNow, h.seen, pscOutsideModel, pscOutsideModel, hin, h.build,
    h.psc]

theorem stepOf : Reference.stepOf s' = Reference.stepOf s := by
  have hread : s'.memRead = s.memRead := by
    funext a
    rw [memRead, memRead, h.mem]
  rw [Reference.stepOf, Reference.stepOf, h.tickNow, h.seen, h.build, hread]

/-- Without a step write FAULT_LED shows the start request's 0 or the held value, which is the same. -/
theorem mux : outputMux (Reference.stepOf s').faultWe (Reference.stepOf s').faultBit
      s'.currentInput.startValid s'.faultLed =
    outputMux (Reference.stepOf s).faultWe (Reference.stepOf s).faultBit s.currentInput.startValid
      s.faultLed := by
  have hin : s'.currentInput = _ := h.input
  rw [h.stepOf, hin]
  cases hs : s.currentInput.startValid with
  | false => rw [h.faultLed hs]
  | true => rfl

theorem wires : (Reference.cycle s').wires = (Reference.cycle s).wires := by
  have hin : s'.currentInput = _ := h.input
  have hrst : s'.currentInput.rst = s.currentInput.rst := by rw [hin]
  rw [cycle_wires, cycle_wires, hrst, h.tickNow, h.stepOf, portAAddr_eq_seen, portAAddr_eq_seen,
    portBAddr_eq_seen, portBAddr_eq_seen, h.seen]

/-- Alike cycles lead to the same registers of the encoder. -/
theorem cycle : SameMorse (Reference.cycle s) (Reference.cycle s') := by
  have hin : s'.currentInput = _ := h.input
  have hrst : s'.currentInput.rst = s.currentInput.rst := by rw [hin]
  obtain ⟨hbuild, hmem, -⟩ := cycle_frame s
  obtain ⟨hbuild', hmem', -⟩ := cycle_frame s'
  have hb : (Reference.cycle s').build = (Reference.cycle s).build := by
    rw [hbuild, hbuild', h.build]
  have hm : (Reference.cycle s').mem = (Reference.cycle s).mem := by
    rw [hmem, hmem', h.build, h.mem, hin]
  cases hr : s.currentInput.rst with
  | false =>
    have hr' := hrst.trans hr
    refine ⟨hb, ?_, hm, ?_, ?_⟩
    · rw [cycle_psc hr, cycle_psc hr', hin, h.build, h.psc]
    · rw [cycle_of_not_rst hr, cycle_of_not_rst hr', running_session, running_session, h.stepOf]
    · rw [cycle_of_not_rst hr, cycle_of_not_rst hr']
      exact h.mux
  | true =>
    refine ⟨hb, ?_, hm, ?_, ?_⟩ <;> rw [cycle_of_rst hr, cycle_of_rst (hrst.trans hr)] <;> rfl

end SameMorseCycle

/-! ### Runs that are alike for the Morse output -/

/-- Two runs of `k` cycles emit the same slots, and where the first completes, so does the second, in the
same registers of the encoder and with the same outputs. -/
def MorseRunsAlike (k : Nat) (s s' : State) : Prop :=
  slotTrace k s' = slotTrace k s ∧
    ∀ t, runCycles k s = .next t → ∃ t', runCycles k s' = .next t' ∧ SameMorse t t' ∧
      (s'.wires = s.wires → t'.wires = t.wires)

/-- A cycle that is alike comes before runs that are alike. -/
theorem SameMorseCycle.morseRunsAlike {k : Nat} {s s' : State} (h : SameMorseCycle s s')
    (ih : MorseRunsAlike k (Reference.cycle s) (Reference.cycle s')) :
    slotTrace (k + 1) s' = slotTrace (k + 1) s ∧
      ∀ t, runCycles (k + 1) s = .next t → ∃ t', runCycles (k + 1) s' = .next t' ∧ SameMorse t t' ∧
        t'.wires = t.wires := by
  obtain ⟨htrace, hrun⟩ := ih
  by_cases hs : s.CycleReady
  · have hs' := h.ready.2 hs
    rw [slotTrace_succ_of_ready k hs, slotTrace_succ_of_ready k hs', runCycles_succ_of_ready k hs,
      runCycles_succ_of_ready k hs', htrace, tickSlot, tickSlot, h.wires]
    refine ⟨rfl, fun t ht => ?_⟩
    obtain ⟨t', ht', hsame, hwires⟩ := hrun t ht
    exact ⟨t', ht', hsame, hwires h.wires⟩
  · rw [slotTrace_succ_of_not_ready k hs, slotTrace_succ_of_not_ready k (mt h.ready.1 hs)]
    exact ⟨rfl, fun t ht => absurd (cycleReady_of_runCycles ht) hs⟩

/-- The inputs of the coming cycles differ at most in `running` and the counter load. -/
theorem SameMorse.morseRunsAlike (k : Nat) {s s' : State} (h : SameMorse s s')
    (hin : List.Forall₂ CycleIn.SameForMorse (upcoming k s) (upcoming k s')) :
    MorseRunsAlike k s s' := by
  induction k generalizing s s' with
  | zero =>
    refine ⟨rfl, fun t ht => ?_⟩
    cases ht
    exact ⟨s', rfl, h, id⟩
  | succ k ih =>
    rw [upcoming_cycle, upcoming_cycle] at hin
    obtain ⟨hfirst, hrest⟩ := List.forall₂_cons.1 hin
    have hcycle := h.toCycle hfirst
    obtain ⟨htrace, hrun⟩ := hcycle.morseRunsAlike (ih hcycle.cycle hrest)
    refine ⟨htrace, fun t ht => ?_⟩
    obtain ⟨t', ht', hsame, hwires⟩ := hrun t ht
    exact ⟨t', ht', hsame, fun _ => hwires⟩

/-- A start request in the next cycle makes it alike, whatever the session was. -/
theorem sameMorseCycle_of_start {s s' : State} (hbuild : s'.build = s.build) (hpsc : s'.psc = s.psc)
    (hmem : s'.mem = s.mem) (hin : s'.currentInput = s.currentInput)
    (hs : s.currentInput.startValid = true) : SameMorseCycle s s' :=
  { build := hbuild, psc := hpsc, mem := hmem
    input := by rw [hin]; rfl
    seen := by simp [Reference.seen, hin, hs, hbuild]
    faultLed := fun hno => by simp [hs] at hno }

/-- Settles O45: the START's cycle is alike, and after it the states agree on what the encoder holds. -/
theorem aSessionForgetsItsPast : Obligations.ASessionForgetsItsPast := by
  intro s s' k hbuild hpsc hmem hin hcyc _ hs
  have hfirst := sameMorseCycle_of_start hbuild hpsc hmem (currentInput_congr hin hcyc) hs
  obtain ⟨-, -, hin', hcyc'⟩ := cycle_frame s
  obtain ⟨-, -, hin'', hcyc''⟩ := cycle_frame s'
  have hup (j : Nat) : upcoming j (Reference.cycle s') = upcoming j (Reference.cycle s) :=
    upcoming_congr j (by rw [hin', hin'', hin]) (by rw [hcyc', hcyc'', hcyc])
  have hruns (j : Nat) := hfirst.morseRunsAlike (hfirst.cycle.morseRunsAlike j
    (by rw [hup]; exact List.forall₂_same.2 fun _ _ => rfl))
  refine ⟨?_, fun t ht => ?_⟩
  · cases k with
    | zero => rfl
    | succ k => exact (hruns k).1
  · obtain ⟨t', ht', hsame, hwires⟩ := (hruns k).2 t ht
    exact ⟨t', ht', hsame.session, hsame.faultLed, hwires⟩

/-! ### Runs that are alike for the timers -/

/-- The states agree on the timers, and neither can stop. -/
structure SameTimers (s s' : State) : Prop where
  inv   : s.Inv
  inv'  : s'.Inv
  build : s'.build = s.build
  psc   : s'.psc = s.psc
  hbLed : s'.hbLed = s.hbLed
  cnt   : s'.cnt = s.cnt

/-- A cycle whose inputs differ at most in the start port and the writes of other agents. -/
theorem SameTimers.cycle {s s' : State} (h : SameTimers s s')
    (hin : s.currentInput.SameForTimers s'.currentInput) :
    SameTimers (Reference.cycle s) (Reference.cycle s') ∧ s.CycleReady ∧ s'.CycleReady := by
  have hin' : s'.currentInput = _ := hin
  have hrst : s'.currentInput.rst = s.currentInput.rst := by rw [hin']
  obtain ⟨t, ht, hinv⟩ := h.inv.step
  obtain ⟨t', ht', hinv'⟩ := h.inv'.step
  obtain ⟨hready, rfl⟩ := step_eq_next.1 ht
  obtain ⟨hready', rfl⟩ := step_eq_next.1 ht'
  have hb : (Reference.cycle s').build = (Reference.cycle s).build := by
    rw [step_build ht, step_build ht', h.build]
  refine ⟨?_, hready, hready'⟩
  cases hr : s.currentInput.rst with
  | false =>
    have hr' := hrst.trans hr
    have htick : s'.tickNow = s.tickNow := by rw [tickNow, tickNow, hin', h.build, h.psc]
    refine ⟨hinv, hinv', hb, ?_, ?_, ?_⟩
    · rw [step_psc hr ht, step_psc hr' ht', hin', h.build, h.psc]
    · rw [step_hbLed hr ht, step_hbLed hr' ht', hin', htick, h.hbLed]
    · rw [step_cnt hr ht, step_cnt hr' ht', hin', htick, h.build, h.cnt]
  | true =>
    refine ⟨hinv, hinv', hb, ?_, ?_, ?_⟩ <;>
      rw [cycle_of_rst hr, cycle_of_rst (hrst.trans hr)] <;> rfl

theorem SameTimers.runCycles (k : Nat) {s s' : State} (h : SameTimers s s')
    (hin : List.Forall₂ CycleIn.SameForTimers (upcoming k s) (upcoming k s')) :
    ∃ t t', runCycles k s = .next t ∧ runCycles k s' = .next t' ∧ SameTimers t t' := by
  induction k generalizing s s' with
  | zero => exact ⟨s, s', rfl, rfl, h⟩
  | succ k ih =>
    rw [upcoming_cycle, upcoming_cycle] at hin
    obtain ⟨hfirst, hrest⟩ := List.forall₂_cons.1 hin
    obtain ⟨hnext, hready, hready'⟩ := h.cycle hfirst
    rw [runCycles_succ_of_ready k hready, runCycles_succ_of_ready k hready']
    exact ih hnext hrest

/-- Settles O47: runs that start alike stay alike, for the Morse output and for the timers. -/
theorem morseAndTimersAreIndependent : Obligations.MorseAndTimersAreIndependent := by
  refine ⟨?morse, ?timers⟩
  case morse =>
    intro s s' ds ds' more more' hbuild hpsc hmem hsession hled hin hin' hds
    have hup' : upcoming ds.length s' = ds' := hds.length_eq ▸ upcoming_of_inputs hin'
    obtain ⟨htrace, hrun⟩ := SameMorse.morseRunsAlike ds.length
      ⟨hbuild, hpsc, hmem, hsession, hled⟩ (by rwa [upcoming_of_inputs hin, hup'])
    refine ⟨htrace, fun t ht => ?_⟩
    obtain ⟨t', ht', hsame, -⟩ := hrun t ht
    exact ⟨t', ht', hsame.session, hsame.faultLed⟩
  case timers =>
    intro s s' ds ds' more more' hinv hinv' hbuild hpsc hhb hcnt hin hin' hds
    have hup' : upcoming ds.length s' = ds' := hds.length_eq ▸ upcoming_of_inputs hin'
    obtain ⟨t, t', ht, ht', hsame⟩ := SameTimers.runCycles ds.length
      ⟨hinv, hinv', hbuild, hpsc, hhb, hcnt⟩ (by rwa [upcoming_of_inputs hin, hup'])
    exact ⟨t, t', ht, ht', hsame.hbLed, hsame.cnt, hsame.psc⟩

end Sys2Proof.Machine
end

section
/-! Idle runs: the statement of 40_morse_encoder.md on idling. -/

namespace Sys2Proof.Machine

open State

/-- What a tick shows of its STEP: the bit of its step write, or that there was none. -/
def slotOf (r : Reference.StepResult) : Option Bool := if r.faultWe then some r.faultBit else none

theorem tickSlot_running (s : State) :
    tickSlot (Reference.running s) = if s.tickNow then [slotOf (Reference.stepOf s)] else [] := rfl

/-- A cycle that sees an idle session leaves it as it is, tick or no tick (40_morse_encoder.md R83). -/
theorem stepOf_of_idle {s : State} (ha : (Reference.seen s).active = false) :
    Reference.stepOf s =
      { session := Reference.seen s, faultWe := false, faultBit := false,
        memAEn := false, memBEn := false } := by
  rw [Reference.stepOf, Reference.stepFn_of_idle ha, ite_self]

section
variable {s : State} (ha : s.active = false) (hp : s.psc < s.build.prescaleN)
include ha

theorem seen_active_of_idle (hs : s.currentInput.startValid = false) :
    (Reference.seen s).active = false := by
  rw [seen_of_no_start hs]
  exact ha

/-- What one idle cycle leaves (40_morse_encoder.md R83). -/
theorem cycle_of_idle (hr : s.currentInput.rst = false) (hs : s.currentInput.startValid = false) :
    Reference.session (Reference.cycle s) = Reference.session s ∧
      (Reference.cycle s).faultLed = s.faultLed ∧
      (Reference.cycle s).wires.memAEn = false ∧ (Reference.cycle s).wires.memBEn = false ∧
      tickSlot (Reference.cycle s) = List.replicate s.tickNow.toNat none := by
  have hidle := stepOf_of_idle (seen_active_of_idle ha hs)
  rw [cycle_of_not_rst hr, running_session, tickSlot_running, hidle, Reference.running, hidle,
    seen_of_no_start hs, hs]
  refine ⟨rfl, rfl, rfl, rfl, ?_⟩
  cases s.tickNow <;> rfl

include hp

theorem cycleReady_of_idle (hs : s.currentInput.startValid = false) : s.CycleReady :=
  cycleReady_of_psc_lt hp fun h => absurd h (Bool.eq_false_iff.1 (seen_active_of_idle ha hs))

end

/-- Idle cycles complete, make no step write, use no port and leave the encoder and FAULT_LED as they are
(40_morse_encoder.md R94). -/
theorem runCycles_of_idle (k : Nat) {s : State} (ha : s.active = false)
    (hp : s.psc < s.build.prescaleN)
    (hcs : ∀ d ∈ upcoming k s, d.rst = false ∧ d.startValid = false) :
    ∃ t n, runCycles k s = .next t ∧ n ≤ k ∧ slotTrace k s = List.replicate n none ∧
      Reference.session t = Reference.session s ∧ t.faultLed = s.faultLed ∧
      ((k = 0 → s.wires.memAEn = false ∧ s.wires.memBEn = false) →
        t.wires.memAEn = false ∧ t.wires.memBEn = false) := by
  induction k generalizing s with
  | zero => exact ⟨s, 0, rfl, Nat.le_refl 0, rfl, rfl, rfl, fun h => h rfl⟩
  | succ k ih =>
    rw [upcoming_cycle] at hcs
    obtain ⟨⟨hr, hs⟩, hrest⟩ := List.forall_mem_cons.1 hcs
    have hready := cycleReady_of_idle ha hp hs
    obtain ⟨hsession, hled, hportA, hportB, hslot⟩ := cycle_of_idle ha hr hs
    obtain ⟨t, n, hrun, hn, htrace, hsession', hled', hwires⟩ :=
      ih ((congrArg Reference.Session.active hsession).trans ha) (cycle_psc_lt hr hp) hrest
    have htick := Bool.toNat_le s.tickNow
    refine ⟨t, s.tickNow.toNat + n, ?_, by omega, ?_, hsession'.trans hsession, hled'.trans hled,
      fun _ => hwires fun _ => ⟨hportA, hportB⟩⟩
    · rw [runCycles_succ_of_ready k hready, hrun]
    · rw [slotTrace_succ_of_ready k hready, hslot, htrace, List.replicate_append_replicate]

/-- Settles O46: an idle run, with the listed inputs. -/
theorem idleIsIdempotent : Obligations.IdleIsIdempotent := by
  intro s cs more ha hp hin hcs
  obtain ⟨t, n, hrun, -, htrace, hsession, hled, hwires⟩ :=
    runCycles_of_idle cs.length ha hp (by rwa [upcoming_of_inputs hin])
  refine ⟨t, hrun, hsession, hled, fun x hx => ?_, fun hne => hwires fun h0 => ?_⟩
  · rw [htrace] at hx
    exact List.eq_of_mem_replicate hx
  · exact absurd (List.length_eq_zero_iff.1 h0) hne

end Sys2Proof.Machine
end

section
/-! Messages: what a session has still to send, and how STEP sends it slot by slot. -/

namespace Sys2Proof.Machine

open State

/-! ### Slots -/

/-- The first slot of an entry, and the rest of it after the shift and the count
(40_morse_encoder.md R88, R89). -/
theorem entrySlots_eq_cons {e : LutEntry} (h : 1 ≤ e.bits.toNat) :
    entrySlots e = e.code.getLsbD 0 :: entrySlots ⟨e.code >>> 1, e.bits - 1⟩ := by
  have hbits : e.bits.toNat = (e.bits - 1).toNat + 1 := by bv_omega
  rw [entrySlots, hbits, List.range_succ_eq_map, List.map_cons, List.map_map, entrySlots]
  refine congrArg _ (List.map_congr_left fun k _ => ?_)
  simp [Nat.add_comm]

theorem entrySlots_of_bits_eq_zero (code : Code) : entrySlots ⟨code, 0⟩ = [] := rfl

theorem entrySlots_lut_ne_nil (c : Byte) : entrySlots (lut c) ≠ [] := by
  have hpos := (lut_sound c).1
  rw [entrySlots_eq_cons (by omega)]
  exact List.cons_ne_nil _ _

/-! ### Messages in the memory -/

/-- The bytes from an address on are a message: characters and the terminator (20_memory.md R47). -/
def MessageFrom (b : Build) (read : Nat → Byte) : Nat → List Byte → Prop
  | a, [] => read a = 0
  | a, c :: cs => read a = c ∧ c ≠ 0 ∧ MessageFrom b read (nextAddr b a) cs

theorem addrAfter_zero {b : Build} {a : Nat} (ha : a < 2 ^ b.addrW) : addrAfter b a 0 = a :=
  Nat.mod_eq_of_lt ha

theorem addrAfter_nextAddr (b : Build) (a i : Nat) :
    addrAfter b (nextAddr b a) i = addrAfter b a (i + 1) := by
  rw [addrAfter, nextAddr, addrAfter, Nat.mod_add_mod, Nat.add_assoc, Nat.add_comm 1]

theorem messageFrom_of_messageAt {s : State} {a : Nat} {cs : List Byte} (ha : a < 2 ^ s.build.addrW)
    (h : s.messageAt a cs) : MessageFrom s.build s.memRead a cs := by
  induction cs generalizing a with
  | nil =>
    obtain ⟨-, hend⟩ := h
    rwa [List.length_nil, addrAfter_zero ha] at hend
  | cons c cs ih =>
    obtain ⟨hchars, hend⟩ := h
    obtain ⟨hc, hne⟩ := hchars 0 (Nat.zero_lt_succ _)
    rw [addrAfter_zero ha] at hc
    refine ⟨hc, hne, ih (nextAddr_lt _ _) ⟨fun i hi => ?_, ?_⟩⟩
    · rw [addrAfter_nextAddr]
      exact hchars (i + 1) (Nat.succ_lt_succ hi)
    · rw [addrAfter_nextAddr]
      exact hend

/-! ### What a session has still to send -/

/-- An active session sends the slots `out`, to the terminator, and then `pass` over and over: nothing where
it does not repeat or is empty, else the message at BASE. -/
structure Sends (b : Build) (read : Nat → Byte) (v : Reference.Session) (out pass : List Bool) :
    Prop where
  active : v.active = true
  bitsLe : v.bits.toNat ≤ 16
  rest   : ∃ cs, MessageFrom b read v.cursor cs ∧
    out = entrySlots ⟨v.code, v.bits⟩ ++ messageSlots cs
  again  : if v.repeatFlag then ∃ msg, MessageFrom b read v.base msg ∧ pass = messageSlots msg
    else pass = []

section
variable {b : Build} {read : Nat → Byte} {v : Reference.Session} {out pass : List Bool}

/-- The entry that STEP emits from has at most 16 slots. -/
theorem current_bits_le (h : v.bits.toNat ≤ 16) : (Reference.current read v).bits.toNat ≤ 16 := by
  unfold Reference.current
  split
  · exact (lut_sound _).2.1
  · exact h

/-- An emitting STEP sends the first slot of its entry, and leaves the rest of it and what follows. -/
theorem Sends.emit (h : Sends b read v out pass) (ht : Reference.terminates read v = false)
    {cs : List Byte} (hcs : MessageFrom b read (Reference.cursorAfter b read v) cs) :
    ∃ x out', entrySlots (Reference.current read v) ++ messageSlots cs = x :: out' ∧
      slotOf (Reference.stepFn b read v) = some x ∧
      Sends b read (Reference.stepFn b read v).session out' pass := by
  have hpos := Reference.one_le_current_bits read v
  have hle := current_bits_le (read := read) h.bitsLe
  have hleft : ((Reference.current read v).bits - 1).toNat ≤ 16 := by bv_omega
  rw [entrySlots_eq_cons hpos, Reference.stepFn_of_emits h.active ht]
  exact ⟨_, _, rfl, rfl, h.active, hleft, ⟨cs, hcs, rfl⟩, h.again⟩

/-- Inside a letter STEP emits from the registers. -/
theorem emits_of_midLetter (hb : v.bits ≠ 0) :
    Reference.terminates read v = false ∧ Reference.current read v = ⟨v.code, v.bits⟩ ∧
      Reference.cursorAfter b read v = v.cursor := by
  simp_all [Reference.terminates, Reference.current, Reference.cursorAfter]

/-- In a load tick STEP emits from the entry of the character at CURSOR. -/
theorem emits_of_character (hb : v.bits = 0) (hc : read v.cursor ≠ 0) :
    Reference.terminates read v = false ∧ Reference.current read v = lut (read v.cursor) ∧
      Reference.cursorAfter b read v = nextAddr b v.cursor := by
  simp_all [Reference.terminates, Reference.restarts, Reference.current, Reference.cursorAfter]

/-- In a restart STEP emits from the entry of the character at BASE. -/
theorem emits_of_restart (hb : v.bits = 0) (hc : read v.cursor = 0) (hr : v.repeatFlag = true)
    (hc' : read v.base ≠ 0) :
    Reference.terminates read v = false ∧ Reference.current read v = lut (read v.base) ∧
      Reference.cursorAfter b read v = nextAddr b v.base := by
  simp_all [Reference.terminates, Reference.restarts, Reference.current, Reference.cursorAfter]

/-- STEP sends the first of the slots that are left of a pass, from the letter under way or from the
character at CURSOR. -/
theorem Sends.cons {x : Bool} (h : Sends b read v (x :: out) pass) :
    slotOf (Reference.stepFn b read v) = some x ∧
      Sends b read (Reference.stepFn b read v).session out pass := by
  obtain ⟨cs, hcs, hout⟩ := h.rest
  suffices hemit : Reference.terminates read v = false ∧ ∃ cs',
      MessageFrom b read (Reference.cursorAfter b read v) cs' ∧
        x :: out = entrySlots (Reference.current read v) ++ messageSlots cs' by
    obtain ⟨ht, cs', hcs', heq⟩ := hemit
    obtain ⟨x', out', hcons, hslot, hsends⟩ := h.emit ht hcs'
    cases heq.trans hcons
    exact ⟨hslot, hsends⟩
  by_cases hb : v.bits = 0
  · rw [hb, entrySlots_of_bits_eq_zero, List.nil_append] at hout
    cases cs with
    | nil => cases hout
    | cons c cs =>
      obtain ⟨rfl, hne, hcs⟩ := hcs
      obtain ⟨ht, hcurrent, hcursor⟩ := emits_of_character (b := b) hb hne
      exact ⟨ht, cs, hcursor ▸ hcs, hcurrent ▸ hout⟩
  · obtain ⟨ht, hcurrent, hcursor⟩ := emits_of_midLetter (b := b) (read := read) hb
    exact ⟨ht, cs, hcursor ▸ hcs, hcurrent ▸ hout⟩

/-- Where nothing is left of a pass, STEP finds the terminator at CURSOR. -/
theorem Sends.at_terminator (h : Sends b read v [] pass) : v.bits = 0 ∧ read v.cursor = 0 := by
  obtain ⟨cs, hcs, hout⟩ := h.rest
  obtain ⟨hentry, hmsg⟩ := List.append_eq_nil_iff.1 hout.symm
  have hlen := congrArg List.length hentry
  rw [length_entrySlots] at hlen
  refine ⟨BitVec.eq_of_toNat_eq hlen, ?_⟩
  cases cs with
  | nil => exact hcs
  | cons c cs => exact absurd (List.append_eq_nil_iff.1 hmsg).1 (entrySlots_lut_ne_nil c)

/-- A session that repeats starts its next pass in the same tick (40_morse_encoder.md R86). -/
theorem Sends.restart {x : Bool} (h : Sends b read v [] (x :: pass)) :
    slotOf (Reference.stepFn b read v) = some x ∧
      Sends b read (Reference.stepFn b read v).session pass (x :: pass) := by
  obtain ⟨hb, hc⟩ := h.at_terminator
  have hagain := h.again
  cases hr : v.repeatFlag with
  | false => simp [hr] at hagain
  | true =>
    rw [if_pos hr] at hagain
    obtain ⟨msg, hmsg, hpass⟩ := hagain
    cases msg with
    | nil => cases hpass
    | cons c msg =>
      obtain ⟨rfl, hne, hmsg⟩ := hmsg
      obtain ⟨ht, hcurrent, hcursor⟩ := emits_of_restart (b := b) hb hc hr hne
      obtain ⟨x', out', hcons, hslot, hsends⟩ := h.emit ht (hcursor ▸ hmsg)
      rw [hcurrent, ← messageSlots_cons, ← hpass] at hcons
      cases hcons
      exact ⟨hslot, hsends⟩

/-- A session that has nothing more to send ends (40_morse_encoder.md R85, R87). -/
theorem Sends.finish (h : Sends b read v [] []) :
    slotOf (Reference.stepFn b read v) = none ∧
      (Reference.stepFn b read v).session.active = false := by
  obtain ⟨hb, hc⟩ := h.at_terminator
  have hempty : v.repeatFlag = true → read v.base = 0 := fun hr => by
    have hagain := h.again
    rw [if_pos hr] at hagain
    obtain ⟨msg, hmsg, hpass⟩ := hagain
    cases msg with
    | nil => exact hmsg
    | cons c msg => exact absurd (List.append_eq_nil_iff.1 hpass.symm).1 (entrySlots_lut_ne_nil c)
  have ht : Reference.terminates read v = true := by
    cases hr : v.repeatFlag with
    | false => simp [Reference.terminates, hb, hc, hr]
    | true => simp [Reference.terminates, hb, hc, hempty hr]
  rw [Reference.stepFn_of_terminates h.active ht]
  exact ⟨rfl, rfl⟩

end

/-! ### Slots in time -/

/-- What the next `n` ticks show of a session that sends `out` and then `pass` over and over. -/
def playback : Nat → List Bool → List Bool → List (Option Bool)
  | 0, _, _ => []
  | n + 1, x :: out, pass => some x :: playback n out pass
  | n + 1, [], x :: pass => some x :: playback n pass (x :: pass)
  | n + 1, [], [] => none :: playback n [] []

theorem length_playback (n : Nat) (out pass : List Bool) : (playback n out pass).length = n := by
  fun_induction playback n out pass with
  | case1 => rfl
  | case2 n x out pass ih => rw [List.length_cons, ih]
  | case3 n x pass ih => rw [List.length_cons, ih]
  | case4 n ih => rw [List.length_cons, ih]

/-- A single pass, and then nothing. -/
theorem playback_once {n k : Nat} (hn : n ≤ k) (out : List Bool) :
    playback n out [] = (out.map some ++ List.replicate k none).take n := by
  induction n generalizing k out with
  | zero => rfl
  | succ n ih =>
    cases out with
    | cons x out => simp [playback, ih (k := k) (by omega)]
    | nil =>
      obtain ⟨k, rfl⟩ := Nat.exists_eq_succ_of_ne_zero (n := k) (by omega)
      simpa [playback, List.replicate_succ] using ih (k := k) (by omega) []

theorem playback_nil (n : Nat) : playback n [] [] = List.replicate n none := by
  simpa using playback_once (Nat.le_refl n) []

/-- Where a pass is over the next one begins at once. -/
theorem playback_restart (n : Nat) (pass : List Bool) :
    playback n [] pass = playback n pass pass := by
  cases n <;> cases pass <;> rfl

/-- Passes without a gap. -/
theorem playback_repeating {n k : Nat} (hn : n ≤ k) (out : List Bool) {pass : List Bool}
    (hpass : pass ≠ []) :
    playback n out pass = ((out ++ (List.replicate k pass).flatten).map some).take n := by
  induction n generalizing k out with
  | zero => rfl
  | succ n ih =>
    cases out with
    | cons x out => simp [playback, ih (k := k) (by omega)]
    | nil =>
      obtain ⟨k, rfl⟩ := Nat.exists_eq_succ_of_ne_zero (n := k) (by omega)
      obtain ⟨x, pass, rfl⟩ := List.exists_cons_of_ne_nil hpass
      simp [playback, ih (k := k) (by omega), List.replicate_succ]

end Sys2Proof.Machine
end

section
/-! Messages over cycles: the statements of 40_morse_encoder.md on the timing of messages. -/

namespace Sys2Proof.Machine

open State

/-- A run of `k` cycles completes, plays `out` and then `pass` over and over, and is active until all of it
is sent. -/
def Plays (k : Nat) (s : State) (out pass : List Bool) : Prop :=
  ∃ t n, runCycles k s = .next t ∧ n ≤ k ∧ slotTrace k s = playback n out pass ∧
    (t.active = true ↔ n ≤ out.length ∨ pass ≠ [])

/-- A tick that plays a slot comes before the run that plays the rest. -/
theorem Plays.tick {k : Nat} {s : State} {x : Bool} {out out' pass : List Bool}
    (hready : s.CycleReady) (hslot : tickSlot (Reference.cycle s) = [some x])
    (h : Plays k (Reference.cycle s) out' pass)
    (hout : out = x :: out' ∨ out = [] ∧ pass = x :: out') : Plays (k + 1) s out pass := by
  obtain ⟨t, n, hrun, hn, htrace, hactive⟩ := h
  refine ⟨t, n + 1, by rw [runCycles_succ_of_ready k hready, hrun], Nat.succ_le_succ hn, ?_, ?_⟩
  · rw [slotTrace_succ_of_ready k hready, hslot, htrace]
    obtain rfl | ⟨rfl, rfl⟩ := hout <;> rfl
  · rw [hactive]
    obtain rfl | ⟨rfl, rfl⟩ := hout <;> simp

section
variable {k : Nat} {s : State} {out pass : List Bool} (hp : s.psc < s.build.prescaleN)
  (hr : s.currentInput.rst = false) (h : Sends s.build s.memRead (Reference.seen s) out pass)
include hp hr h

/-- One cycle of a session that sends, and the cycles after it without a start request. -/
theorem Sends.plays_succ (hcs : ∀ d ∈ upcoming k (Reference.cycle s), d.Undisturbed)
    (ih : ∀ out', Sends s.build s.memRead (Reference.session (Reference.cycle s)) out' pass →
      Plays k (Reference.cycle s) out' pass) : Plays (k + 1) s out pass := by
  have hready : s.CycleReady := cycleReady_of_psc_lt hp fun _ => h.bitsLe
  have hsession : Reference.session (Reference.cycle s) = (Reference.stepOf s).session := by
    rw [cycle_of_not_rst hr, running_session]
  have hslot : tickSlot (Reference.cycle s) =
      if s.tickNow then [slotOf (Reference.stepOf s)] else [] := by
    rw [cycle_of_not_rst hr, tickSlot_running]
  rw [hsession, Reference.stepOf] at ih
  rw [Reference.stepOf] at hslot hsession
  cases ht : s.tickNow with
  | false =>
    rw [ht] at ih hslot
    obtain ⟨t, n, hrun, hn, htrace, hactive⟩ := ih out h
    refine ⟨t, n, by rw [runCycles_succ_of_ready k hready, hrun], Nat.le_succ_of_le hn, ?_, hactive⟩
    rw [slotTrace_succ_of_ready k hready, hslot, htrace]
    rfl
  | true =>
    rw [ht, if_pos rfl] at ih hsession
    rw [ht, if_pos rfl, if_pos rfl] at hslot
    match out, pass with
    | x :: out, pass =>
      obtain ⟨hx, hsends⟩ := h.cons
      exact Plays.tick hready (hx ▸ hslot) (ih out hsends) (.inl rfl)
    | [], x :: pass =>
      obtain ⟨hx, hsends⟩ := h.restart
      exact Plays.tick hready (hx ▸ hslot) (ih pass hsends) (.inr ⟨rfl, rfl⟩)
    | [], [] =>
      obtain ⟨hx, hidle⟩ := h.finish
      have ha : (Reference.cycle s).active = false :=
        (congrArg Reference.Session.active hsession).trans hidle
      obtain ⟨t, n, hrun, hn, htrace, hsession', -⟩ := runCycles_of_idle k ha (cycle_psc_lt hr hp)
        fun d hd => ⟨(hcs d hd).1, (hcs d hd).2.1⟩
      have hta : t.active = false := (congrArg Reference.Session.active hsession').trans ha
      refine ⟨t, n + 1, by rw [runCycles_succ_of_ready k hready, hrun], Nat.succ_le_succ hn, ?_,
        by simp [hta]⟩
      rw [slotTrace_succ_of_ready k hready, hslot, hx, htrace, playback_nil]
      rfl

end

theorem memRead_cycle {s : State} (hm : s.currentInput.memWrites = []) :
    (Reference.cycle s).memRead = s.memRead := by
  obtain ⟨-, hmem, -⟩ := cycle_frame s
  funext a
  rw [memRead, memRead, hmem, hm, applyWrites_nil]

/-- A session plays what it has to send, over undisturbed cycles. -/
theorem Sends.plays (k : Nat) {s : State} {out pass : List Bool} (hp : s.psc < s.build.prescaleN)
    (hcs : ∀ d ∈ upcoming k s, d.Undisturbed)
    (h : Sends s.build s.memRead (Reference.session s) out pass) : Plays k s out pass := by
  induction k generalizing s out with
  | zero => exact ⟨s, 0, rfl, Nat.le_refl 0, rfl, fun _ => .inl (Nat.zero_le _), fun _ => h.active⟩
  | succ k ih =>
    rw [upcoming_cycle] at hcs
    obtain ⟨⟨hr, hs, hm⟩, hrest⟩ := List.forall_mem_cons.1 hcs
    obtain ⟨hbuild, -⟩ := cycle_frame s
    rw [← seen_of_no_start hs] at h
    refine h.plays_succ hp hr hrest fun out' hsends => ih (cycle_psc_lt hr hp) hrest ?_
    rwa [hbuild, memRead_cycle hm]

/-- A START of a message plays the message, and over and over where it repeats; a session of the past plays
no part (40_morse_encoder.md R92, R95, R96). -/
theorem plays_of_start {s : State} {c : CycleIn} {cs more : List CycleIn} {a : Nat} {rep : Bool}
    {msg : List Byte} (hp : s.psc < s.build.prescaleN) (ha : a < 2 ^ s.build.addrW)
    (hin : s.inputs = c :: cs ++ more) (hc : c.Starts a rep) (hcs : ∀ d ∈ cs, d.Undisturbed)
    (hmsg : s.messageAt a msg) :
    Plays (cs.length + 1) s (messageSlots msg) (if rep then messageSlots msg else []) := by
  obtain ⟨hr, hs, hnull, haddr, hrep, hm⟩ := hc
  have hup := upcoming_of_inputs hin
  rw [List.length_cons, upcoming_cycle, List.cons.injEq] at hup
  obtain ⟨hinput, hrest⟩ := hup
  rw [← hrest] at hcs
  rw [← hinput] at hr hs hnull haddr hrep hm
  have hfrom := messageFrom_of_messageAt ha hmsg
  have hsends : Sends s.build s.memRead (Reference.seen s) (messageSlots msg)
      (if rep then messageSlots msg else []) := by
    rw [Reference.seen, if_pos hs, hnull, haddr, hrep, fitAddr_of_lt ha]
    refine ⟨rfl, Nat.zero_le _, ⟨msg, hfrom, rfl⟩, ?_⟩
    cases rep with
    | false => rfl
    | true => exact ⟨msg, hfrom, rfl⟩
  obtain ⟨hbuild, -⟩ := cycle_frame s
  refine hsends.plays_succ hp hr hcs fun out' hsends' => Sends.plays _ (cycle_psc_lt hr hp) hcs ?_
  rwa [hbuild, memRead_cycle hm]

theorem messageSlots_ne_nil {msg : List Byte} (h : msg ≠ []) : messageSlots msg ≠ [] := by
  obtain ⟨c, cs, rfl⟩ := List.exists_cons_of_ne_nil h
  exact fun hnil => entrySlots_lut_ne_nil c (List.append_eq_nil_iff.1 hnil).1

/-- Settles O42: the START plays its message once. -/
theorem aMessageIsSentOnce : Obligations.AMessageIsSentOnce := by
  intro s c cs more a msg hp ha hin hc hcs _ hmsg
  obtain ⟨t, n, hrun, hn, htrace, hactive⟩ := plays_of_start hp ha hin hc hcs hmsg
  rw [if_neg Bool.false_ne_true] at htrace hactive
  rw [htrace, length_playback]
  exact ⟨t, hrun, playback_once hn _, by simpa using hactive⟩

/-- Settles O43: the START plays its message over and over. -/
theorem aRepeatingMessageIsPeriodic : Obligations.ARepeatingMessageIsPeriodic := by
  intro s c cs more a msg hp ha hin hc hcs hne hmsg
  obtain ⟨t, n, hrun, hn, htrace, hactive⟩ := plays_of_start hp ha hin hc hcs hmsg
  have hslots := messageSlots_ne_nil hne
  rw [if_pos rfl] at htrace hactive
  rw [htrace, length_playback]
  refine ⟨t, hrun, ?_, hactive.2 (.inr hslots)⟩
  rw [← playback_restart]
  exact playback_repeating hn [] hslots

/-- Settles O44: the START of an empty message has nothing to play, whether it repeats or not. -/
theorem anEmptyMessageIsIdle : Obligations.AnEmptyMessageIsIdle := by
  intro s c cs more a r hp ha hin hc hcs hmem
  have hempty : s.messageAt a [] :=
    ⟨fun i hi => absurd hi (Nat.not_lt_zero i), by rwa [List.length_nil, addrAfter_zero ha]⟩
  obtain ⟨t, n, hrun, hn, htrace, hactive⟩ := plays_of_start hp ha hin hc hcs hempty
  have hnil : messageSlots [] = [] := rfl
  rw [hnil, ite_self] at htrace hactive
  rw [htrace, playback_nil]
  refine ⟨t, hrun, fun x hx => List.eq_of_mem_replicate hx,
    fun hne => Bool.eq_false_iff.2 fun ha => ?_⟩
  have hn0 : n = 0 := by simpa using hactive.1 ha
  rw [hn0] at hne
  exact hne rfl

end Sys2Proof.Machine
end
